-- ==== Sys2Proof/Word.lean ====
section
/-! DEFINITION. The machine's words: the spec's `u8`, `u16`, `u4` and 12-bit immediate (00_scope.md R8, R81). -/

namespace Sys2Proof

/-- `u8`: a general register, a memory cell, a timer, the immediate `NN` (00_scope.md R8). -/
abbrev Byte := BitVec 8

/-- `u16`: an instruction word, `I`, `PC`, a stack cell (00_scope.md R8). -/
abbrev Word := BitVec 16

/-- `u4`: one nibble of an instruction word (00_scope.md R7). -/
abbrev Nibble := BitVec 4

/-- The 12-bit immediate `NNN` (30_encoding.md R81). -/
abbrev Addr12 := BitVec 12

/-- The number of a general register, 0 to 15: every nibble names a register (30_encoding.md R83). -/
abbrev Reg := Fin 16

/-- A logical key, 0 to 15 (00_scope.md R5, 10_state.md R32). -/
abbrev Key := Fin 16

end Sys2Proof
end

