-- ==== Sys2Proof/Config.lean ====
section
/-! DEFINITION. The free values of the machine: what the spec leaves open and the model holds for every value. -/

namespace Sys2Proof

/-- The random source of `CXNN` (00_scope.md R13, 10_state.md R35): `Config.rnd n` is the byte of the `n`-th draw since
power-on. It has no body, so nothing can be proved about its value: "any `u8`, independent of every other draw and of the
state" (92_eei_decisions.md D13). DESIGN CHOICE: the draw is indexed by a counter in the state (assumption 7). -/
opaque Config.rnd : Nat → Byte

end Sys2Proof
end

