-- ==== Sys2Proof/Syntax.lean ====
section
/-! DEFINITION. The instructions: one constructor per row of spec/opcode_table.json (30_encoding.md R85). -/

namespace Sys2Proof

/-- An instruction with its decoded fields (30_encoding.md R81 to R83). Each docstring gives the opcode pattern, which is the
spec's primary name (R89), the spec's mnemonic, and the rule of its meaning. -/
inductive Instr where
  /-- `00E0`, CLS (R120). -/
  | cls
  /-- `00EE`, RET (R121). -/
  | ret
  /-- `1NNN`, JP NNN (R122). -/
  | jp (nnn : Addr12)
  /-- `2NNN`, CALL NNN (R123). -/
  | call (nnn : Addr12)
  /-- `3XNN`, SE Vx, NN (R125). -/
  | seImm (x : Reg) (nn : Byte)
  /-- `4XNN`, SNE Vx, NN (R126). -/
  | sneImm (x : Reg) (nn : Byte)
  /-- `5XY0`, SE Vx, Vy (R127). -/
  | seReg (x y : Reg)
  /-- `6XNN`, LD Vx, NN (R140). -/
  | ldImm (x : Reg) (nn : Byte)
  /-- `7XNN`, ADD Vx, NN (R141). -/
  | addImm (x : Reg) (nn : Byte)
  /-- `8XY0`, LD Vx, Vy (R142). -/
  | ldReg (x y : Reg)
  /-- `8XY1`, OR Vx, Vy (R143). -/
  | orReg (x y : Reg)
  /-- `8XY2`, AND Vx, Vy (R144). -/
  | andReg (x y : Reg)
  /-- `8XY3`, XOR Vx, Vy (R145). -/
  | xorReg (x y : Reg)
  /-- `8XY4`, ADD Vx, Vy (R146). -/
  | addReg (x y : Reg)
  /-- `8XY5`, SUB Vx, Vy (R147). -/
  | subReg (x y : Reg)
  /-- `8XY6`, SHR Vx, Vy (R149). -/
  | shrReg (x y : Reg)
  /-- `8XY7`, SUBN Vx, Vy (R148). -/
  | subnReg (x y : Reg)
  /-- `8XYE`, SHL Vx, Vy (R150). -/
  | shlReg (x y : Reg)
  /-- `9XY0`, SNE Vx, Vy (R128). -/
  | sneReg (x y : Reg)
  /-- `ANNN`, LD I, NNN (R151). -/
  | ldI (nnn : Addr12)
  /-- `BNNN`, JP V0, NNN (R124). -/
  | jpV0 (nnn : Addr12)
  /-- `CXNN`, RND Vx, NN (R152). -/
  | rnd (x : Reg) (nn : Byte)
  /-- `DXYN`, DRW Vx, Vy, N (R160). -/
  | drw (x y : Reg) (n : Nibble)
  /-- `EX9E`, SKP Vx (R170). -/
  | skp (x : Reg)
  /-- `EXA1`, SKNP Vx (R171). -/
  | sknp (x : Reg)
  /-- `FX07`, LD Vx, DT (R180). -/
  | ldVxDt (x : Reg)
  /-- `FX0A`, LD Vx, K (R172). -/
  | ldVxK (x : Reg)
  /-- `FX15`, LD DT, Vx (R181). -/
  | ldDtVx (x : Reg)
  /-- `FX18`, LD ST, Vx (R182). -/
  | ldStVx (x : Reg)
  /-- `FX1E`, ADD I, Vx (R183). -/
  | addI (x : Reg)
  /-- `FX29`, LD F, Vx (R184). -/
  | ldF (x : Reg)
  /-- `FX33`, LD B, Vx (R185). -/
  | ldB (x : Reg)
  /-- `FX55`, LD [I], Vx (R186). -/
  | ldMemVx (x : Reg)
  /-- `FX65`, LD Vx, [I] (R187). -/
  | ldVxMem (x : Reg)
  /-- `UNDEF`, any other word, which it keeps whole (R86, R106). -/
  | undef (w : Word)
  deriving DecidableEq, Repr

end Sys2Proof
end

