-- ==== Sys2Proof/WellFormed.lean ====
section
/-! DEFINITION. Which instructions are well formed: every field of a defined pattern admits every value of its width
(30_encoding.md R83), so the one check is that an `UNDEF` word is one of the undefined words listed by R86. -/

namespace Sys2Proof

/-- The undefined words, family by family, as the table of 30_encoding.md R86 lists them (literal nibbles matched exactly, R87). -/
def isUndefinedWord (w : Word) : Bool :=
  let n := w.extractLsb' 0 4
  let nn := w.extractLsb' 0 8
  match (w.extractLsb' 12 4).toNat with
  | 0x0 => w != 0x00E0 && w != 0x00EE
  | 0x5 => n != 0
  | 0x8 => n == 0x8 || n == 0x9 || n == 0xA || n == 0xB || n == 0xC || n == 0xD || n == 0xF
  | 0x9 => n != 0
  | 0xE => nn != 0x9E && nn != 0xA1
  | 0xF => nn != 0x07 && nn != 0x0A && nn != 0x15 && nn != 0x18 && nn != 0x1E && nn != 0x29 && nn != 0x33
      && nn != 0x55 && nn != 0x65
  | _ => false

/-- The check on one instruction. -/
def Instr.wellFormed : Instr → Bool
  | .cls => true
  | .ret => true
  | .jp _ => true
  | .call _ => true
  | .seImm _ _ => true
  | .sneImm _ _ => true
  | .seReg _ _ => true
  | .ldImm _ _ => true
  | .addImm _ _ => true
  | .ldReg _ _ => true
  | .orReg _ _ => true
  | .andReg _ _ => true
  | .xorReg _ _ => true
  | .addReg _ _ => true
  | .subReg _ _ => true
  | .shrReg _ _ => true
  | .subnReg _ _ => true
  | .shlReg _ _ => true
  | .sneReg _ _ => true
  | .ldI _ => true
  | .jpV0 _ => true
  | .rnd _ _ => true
  | .drw _ _ _ => true
  | .skp _ => true
  | .sknp _ => true
  | .ldVxDt _ => true
  | .ldVxK _ => true
  | .ldDtVx _ => true
  | .ldStVx _ => true
  | .addI _ => true
  | .ldF _ => true
  | .ldB _ => true
  | .ldMemVx _ => true
  | .ldVxMem _ => true
  | .undef w => isUndefinedWord w

/-- `i` is well formed. -/
abbrev WellFormed (i : Instr) : Prop := i.wellFormed = true

end Sys2Proof
end

