-- ==== Sys2Proof/Decode.lean ====
section
/-! DEFINITION. The decoder, total on words and on bytes (30_encoding.md R84 to R87), and the encoder written from the same
table (R82, R85). -/

namespace Sys2Proof

/-! Fields of an instruction word (30_encoding.md R81). -/

/-- Family: bits 15:12. -/
def fieldFamily (w : Word) : Nibble := w.extractLsb' 12 4

/-- A nibble as a register number (R83: every value is a valid register). -/
def regOfNibble (n : Nibble) : Reg := ⟨n.toNat, n.isLt⟩

/-- A register number as the nibble that encodes it. -/
def nibbleOfReg (r : Reg) : Nibble := BitVec.ofNat 4 r.val

/-- `X`: bits 11:8. -/
def fieldX (w : Word) : Reg := regOfNibble (w.extractLsb' 8 4)

/-- `Y`: bits 7:4. -/
def fieldY (w : Word) : Reg := regOfNibble (w.extractLsb' 4 4)

/-- `N`: bits 3:0. -/
def fieldN (w : Word) : Nibble := w.extractLsb' 0 4

/-- `NN`: bits 7:0. -/
def fieldNN (w : Word) : Byte := w.extractLsb' 0 8

/-- `NNN`: bits 11:0. -/
def fieldNNN (w : Word) : Addr12 := w.extractLsb' 0 12

/-! The handlers of the families that sub-dispatch (R84, R87). -/

/-- Family 0: two fixed words. -/
def decode0 (w : Word) : Instr :=
  if w = 0x00E0 then .cls else if w = 0x00EE then .ret else .undef w

/-- Families 5 and 9: one pattern with the literal low nibble 0. -/
def decodeXY0 (ctor : Reg → Reg → Instr) (w : Word) : Instr :=
  if fieldN w = 0 then ctor (fieldX w) (fieldY w) else .undef w

/-- Family 8: sub-dispatch on `N`. -/
def decode8 (w : Word) : Instr :=
  match (fieldN w).toNat with
  | 0x0 => .ldReg (fieldX w) (fieldY w)
  | 0x1 => .orReg (fieldX w) (fieldY w)
  | 0x2 => .andReg (fieldX w) (fieldY w)
  | 0x3 => .xorReg (fieldX w) (fieldY w)
  | 0x4 => .addReg (fieldX w) (fieldY w)
  | 0x5 => .subReg (fieldX w) (fieldY w)
  | 0x6 => .shrReg (fieldX w) (fieldY w)
  | 0x7 => .subnReg (fieldX w) (fieldY w)
  | 0xE => .shlReg (fieldX w) (fieldY w)
  | _ => .undef w

/-- Family E: sub-dispatch on `NN`. -/
def decodeE (w : Word) : Instr :=
  match (fieldNN w).toNat with
  | 0x9E => .skp (fieldX w)
  | 0xA1 => .sknp (fieldX w)
  | _ => .undef w

/-- Family F: sub-dispatch on `NN`. -/
def decodeF (w : Word) : Instr :=
  match (fieldNN w).toNat with
  | 0x07 => .ldVxDt (fieldX w)
  | 0x0A => .ldVxK (fieldX w)
  | 0x15 => .ldDtVx (fieldX w)
  | 0x18 => .ldStVx (fieldX w)
  | 0x1E => .addI (fieldX w)
  | 0x29 => .ldF (fieldX w)
  | 0x33 => .ldB (fieldX w)
  | 0x55 => .ldMemVx (fieldX w)
  | 0x65 => .ldVxMem (fieldX w)
  | _ => .undef w

/-- Decoding a word: dispatch on the family nibble, total on all 65536 words (30_encoding.md R84, 40_dispatch.md R102, R103). -/
def decode (w : Word) : Instr :=
  match (fieldFamily w).toNat with
  | 0x0 => decode0 w
  | 0x1 => .jp (fieldNNN w)
  | 0x2 => .call (fieldNNN w)
  | 0x3 => .seImm (fieldX w) (fieldNN w)
  | 0x4 => .sneImm (fieldX w) (fieldNN w)
  | 0x5 => decodeXY0 .seReg w
  | 0x6 => .ldImm (fieldX w) (fieldNN w)
  | 0x7 => .addImm (fieldX w) (fieldNN w)
  | 0x8 => decode8 w
  | 0x9 => decodeXY0 .sneReg w
  | 0xA => .ldI (fieldNNN w)
  | 0xB => .jpV0 (fieldNNN w)
  | 0xC => .rnd (fieldX w) (fieldNN w)
  | 0xD => .drw (fieldX w) (fieldY w) (fieldN w)
  | 0xE => decodeE w
  | _ => decodeF w

/-- The word of two bytes, the first (lower address) most significant (20_memory.md R55). -/
def wordOfBytes (hi lo : Byte) : Word := hi ++ lo

/-- The two bytes of a word in the order memory holds them (20_memory.md R55). -/
def bytesOfWord (w : Word) : List Byte := [w.extractLsb' 8 8, w.extractLsb' 0 8]

/-- Why a list of bytes is no instruction. -/
inductive DecodeError where
  /-- Fewer than the two bytes every instruction has (30_encoding.md R80). -/
  | tooShort
  deriving DecidableEq, Repr

/-- Decoding from bytes: the instruction and the bytes after it; two bytes always decode (30_encoding.md R80, R84). -/
def decodeBytes : List Byte → Except DecodeError (Instr × List Byte)
  | hi :: lo :: rest => .ok (decode (wordOfBytes hi lo), rest)
  | _ => .error .tooShort

/-! The encoder, format by format (30_encoding.md R82). -/

/-- Format NNN. -/
def encodeNNN (f : Nibble) (nnn : Addr12) : Word := f ++ nnn

/-- Format XNN. -/
def encodeXNN (f : Nibble) (x : Reg) (nn : Byte) : Word := f ++ nibbleOfReg x ++ nn

/-- Formats XYs and XYN. -/
def encodeXYN (f : Nibble) (x y : Reg) (n : Nibble) : Word := f ++ nibbleOfReg x ++ nibbleOfReg y ++ n

/-- The word of an instruction (30_encoding.md R85). -/
def encode : Instr → Word
  | .cls => 0x00E0
  | .ret => 0x00EE
  | .jp nnn => encodeNNN 0x1 nnn
  | .call nnn => encodeNNN 0x2 nnn
  | .seImm x nn => encodeXNN 0x3 x nn
  | .sneImm x nn => encodeXNN 0x4 x nn
  | .seReg x y => encodeXYN 0x5 x y 0x0
  | .ldImm x nn => encodeXNN 0x6 x nn
  | .addImm x nn => encodeXNN 0x7 x nn
  | .ldReg x y => encodeXYN 0x8 x y 0x0
  | .orReg x y => encodeXYN 0x8 x y 0x1
  | .andReg x y => encodeXYN 0x8 x y 0x2
  | .xorReg x y => encodeXYN 0x8 x y 0x3
  | .addReg x y => encodeXYN 0x8 x y 0x4
  | .subReg x y => encodeXYN 0x8 x y 0x5
  | .shrReg x y => encodeXYN 0x8 x y 0x6
  | .subnReg x y => encodeXYN 0x8 x y 0x7
  | .shlReg x y => encodeXYN 0x8 x y 0xE
  | .sneReg x y => encodeXYN 0x9 x y 0x0
  | .ldI nnn => encodeNNN 0xA nnn
  | .jpV0 nnn => encodeNNN 0xB nnn
  | .rnd x nn => encodeXNN 0xC x nn
  | .drw x y n => encodeXYN 0xD x y n
  | .skp x => encodeXNN 0xE x 0x9E
  | .sknp x => encodeXNN 0xE x 0xA1
  | .ldVxDt x => encodeXNN 0xF x 0x07
  | .ldVxK x => encodeXNN 0xF x 0x0A
  | .ldDtVx x => encodeXNN 0xF x 0x15
  | .ldStVx x => encodeXNN 0xF x 0x18
  | .addI x => encodeXNN 0xF x 0x1E
  | .ldF x => encodeXNN 0xF x 0x29
  | .ldB x => encodeXNN 0xF x 0x33
  | .ldMemVx x => encodeXNN 0xF x 0x55
  | .ldVxMem x => encodeXNN 0xF x 0x65
  | .undef w => w

/-- The instruction's word, if it is well formed. -/
def encode? (i : Instr) : Option Word := if i.wellFormed then some (encode i) else none

/-- The word of an instruction whose bits, numbered as spec/opcode_table.json numbers them, are the low `nbits` bits of `w`:
there is one word (30_encoding.md R80), whose bit 0 is the table's bit 0. -/
def tableWord (nbits w : Nat) : Word := BitVec.ofNat 16 (w % 2 ^ nbits)

/-- What the decoder reads from the bytes of such an instruction, laid out as memory holds them. -/
def decodeTableWord (nbits w : Nat) : Option Instr :=
  match decodeBytes (bytesOfWord (tableWord nbits w)) with
  | .ok (i, _) => some i
  | .error _ => none

end Sys2Proof
end

