-- ==== Sys2Proof/Machine/State.lean ====
section
/-! DEFINITION. The machine's state: every element of the aggregate of 10_state.md R20, and the reset state of R37. -/

namespace Sys2Proof.Machine

/-- The fault records of 60_exceptions.md R200, with the information R201 to R204 say each one records. A fault is an
effect, not an end of the model: the operation that raises it answers the state with `fault` set to the record (R11, R211),
and no step ends in `Host.Outcome.fault` (assumption 1). -/
inductive Fault where
  /-- `ROM_TOO_LARGE`: raised by `load` of more than 3584 bytes, with their number (R203). Safe: nothing is written (D17). -/
  | romTooLarge (len : Nat)
  /-- `STACK_OVERFLOW`: raised by `2NNN` when `SP = 15`, with `pc0` (R201). Safe: a program nesting 16 deep is faulted (D5). -/
  | stackOverflow (pc0 : Word)
  /-- `STACK_UNDERFLOW`: raised by `00EE` when `SP = 0`, with `pc0` (R202). Safe: as the overflow (D5). -/
  | stackUnderflow (pc0 : Word)
  /-- `ADDRESS_FAULT`: raised by a fetch, `DXYN`, `FX33`, `FX55` or `FX65` that would touch an address above 0xFFF, with
  `pc0` and the lowest such address (R204). Safe: a program that relies on wrap-around is faulted (D1). -/
  | addressFault (pc0 : Word) (addr : Nat)
  deriving DecidableEq, Repr

/-- Why an instruction has no meaning in the model. -/
inductive Refusal where
  /-- Raised by an arm of `exec` that has no meaning yet, with the table's mnemonic. Safe: nothing can be proved about it.
  No arm raises it: every instruction has its meaning. -/
  | notModelled (mnemonic : String)
  deriving DecidableEq, Repr

/-- `MEM` as the cells that differ from their reset content, by rising address (10_state.md R28; assumption 3). -/
abbrev Memory := List Host.Cell

/-- `FB`: 32 rows of 64 cells, `fb[y][x]` the cell at row `y` and column `x`, on or off (10_state.md R29). -/
abbrev Framebuffer := Vector (Vector Bool 64) 32

/-- Every cell off (41_control_flow.md R120). -/
def Framebuffer.blank : Framebuffer := Vector.replicate 32 (Vector.replicate 64 false)

/-- The whole machine state (10_state.md R20). -/
structure State where
  /-- `V[0]` to `V[15]` (R21); `V[15]` is the flag `VF` (R22). -/
  v : Vector Byte 16
  /-- `I`, the index register (R23). -/
  i : Word
  /-- `PC`, the address of the next instruction to fetch (R24). -/
  pc : Word
  /-- `SP`, the number of calls not yet returned from (R26). -/
  sp : Fin 16
  /-- `STK[0]` to `STK[15]` (R27). -/
  stk : Vector Word 16
  /-- `MEM` (R28). -/
  mem : Memory
  /-- `FB` (R29). -/
  fb : Framebuffer
  /-- `DT`, the delay timer (R30). -/
  dt : Byte
  /-- `ST`, the sound timer (R31). -/
  st : Byte
  /-- `KEY`, the input latch (R32). -/
  key : Option Key
  /-- `FAULT`, the fault latch (R33). -/
  fault : Option Fault
  /-- The model's own field: how many random bytes have been drawn, the index of the next free value (R35; assumption 7). -/
  draws : Nat
  deriving DecidableEq, Repr

/-- The state after `reset` at power-on (10_state.md R37), with the latch at `KEY_INIT = none` (assumption 5) and no byte
drawn yet (assumption 7). -/
def State.reset : State where
  v := Vector.replicate 16 0
  i := 0
  pc := 0x200
  sp := 0
  stk := Vector.replicate 16 0
  mem := []
  fb := Framebuffer.blank
  dt := 0
  st := 0
  key := none
  fault := none
  draws := 0

/-- What a step answers. -/
abbrev Result := Host.Outcome State Fault Refusal

end Sys2Proof.Machine
end

