-- ==== Sys2Proof/Machine/Memory.lean ====
section
/-! DEFINITION. The memory image: what `reset` leaves in it, reading and writing its cells, its canonical form
(10_state.md R28, R38; 20_memory.md R51 to R53). -/

namespace Sys2Proof.Machine

/-- The number of cells (20_memory.md R51). -/
def memSize : Nat := 4096

/-- Where programs are loaded and `PC` starts (00_scope.md R5). -/
def programBase : Nat := 0x200

/-- `FONT`, glyphs 0 to F of five bytes each, top row first: the default table of 10_state.md R38. PRESUMED: the spec marks
these bytes as general knowledge, not in the source (assumption 2). -/
def font : List Byte :=
  [0xF0, 0x90, 0x90, 0x90, 0xF0] ++ [0x20, 0x60, 0x20, 0x20, 0x70] ++
  [0xF0, 0x10, 0xF0, 0x80, 0xF0] ++ [0xF0, 0x10, 0xF0, 0x10, 0xF0] ++
  [0x90, 0x90, 0xF0, 0x10, 0x10] ++ [0xF0, 0x80, 0xF0, 0x10, 0xF0] ++
  [0xF0, 0x80, 0xF0, 0x90, 0xF0] ++ [0xF0, 0x10, 0x20, 0x40, 0x40] ++
  [0xF0, 0x90, 0xF0, 0x90, 0xF0] ++ [0xF0, 0x90, 0xF0, 0x10, 0xF0] ++
  [0xF0, 0x90, 0xF0, 0x90, 0x90] ++ [0xE0, 0x90, 0xE0, 0x90, 0xE0] ++
  [0xF0, 0x80, 0x80, 0x80, 0xF0] ++ [0xE0, 0x90, 0x90, 0x90, 0xE0] ++
  [0xF0, 0x80, 0xF0, 0x80, 0xF0] ++ [0xF0, 0x80, 0xF0, 0x80, 0x80]

/-- The size of the font region, 0x000 to 0x04F (20_memory.md R53). -/
def fontSize : Nat := 80

/-- What an unlisted cell reads as: its content after `reset` (10_state.md R37), the font below 0x050 and zero above. -/
def resetByte (a : Nat) : Byte := if a < fontSize then font.getD a 0 else 0

/-- `MEM[a]` (00_scope.md R9); callers check `a` against the address space first (R10). -/
def Memory.read : Memory → Nat → Byte
  | [], a => resetByte a
  | (c, v) :: m, a => if a = c then v else Memory.read m a

/-- `m` with the cell `a` in front, unless `b` is what `a` reads as unlisted. -/
def Memory.listed (a : Nat) (b : Byte) (m : Memory) : Memory := if b = resetByte a then m else (a, b) :: m

/-- `MEM[a] <- b` (00_scope.md R9), keeping the canonical form. -/
def Memory.write : Memory → Nat → Byte → Memory
  | [], a, b => Memory.listed a b []
  | (c, v) :: m, a, b =>
    if a < c then Memory.listed a b ((c, v) :: m)
    else if a = c then Memory.listed a b m
    else (c, v) :: Memory.write m a b

/-- Byte writes at consecutive rising addresses from `a` (20_memory.md R56). -/
def Memory.writeBytes : Memory → Nat → List Byte → Memory
  | m, _, [] => m
  | m, a, b :: bs => Memory.writeBytes (Memory.write m a b) (a + 1) bs

/-- Byte reads at `n` consecutive rising addresses from `a` (20_memory.md R56). -/
def Memory.readBytes (m : Memory) : Nat → Nat → List Byte
  | _, 0 => []
  | a, n + 1 => Memory.read m a :: Memory.readBytes m (a + 1) n

/-- The canonical form: addresses strictly rising, each of the 4096, no cell listed at its reset content (assumption 3). -/
abbrev Memory.wf (m : Memory) : Prop :=
  m.Pairwise (fun c d => c.1 < d.1) ∧ ∀ c ∈ m, c.1 < memSize ∧ c.2 ≠ resetByte c.1

/-- The lowest address outside `MEM` among the `n` addresses from `a` on, if there is one: addresses are unbounded integers,
never reduced (20_memory.md R58, R59; the check is the spec's decision D1). -/
def firstBadAddress (a n : Nat) : Option Nat := if n = 0 ∨ a + n ≤ memSize then none else some (max a memSize)

end Sys2Proof.Machine
end

