-- ==== Sys2Proof/Machine/Ops.lean ====
section
/-! DEFINITION. The named operations over registers, `PC`, stack, timers and memory; raising a fault; fetching. -/

namespace Sys2Proof.Machine

/-! General registers (10_state.md R21). -/

/-- `V[x]`. -/
def State.getV (s : State) (x : Reg) : Byte := s.v[x]

/-- `V[x] <- b`. -/
def State.setV (s : State) (x : Reg) (b : Byte) : State := { s with v := s.v.set x b }

/-- `VF`, the number of the flag register (10_state.md R22). -/
def regVF : Reg := 15

/-- `VF <- c ? 1 : 0` (10_state.md R22: a flag is always 0 or 1). -/
def State.setFlag (s : State) (c : Bool) : State := s.setV regVF (if c then 1 else 0)

/-- `V[0]` to `V[x]` in order (45_timer_memory.md R186). -/
def State.lowRegs (s : State) (x : Reg) : List Byte := s.v.toList.take (x.val + 1)

/-- `V[r] <- f r` for `r` in 0 to `x` (45_timer_memory.md R187); registers above `x` are not touched. -/
def State.setLowRegs (s : State) (x : Reg) (f : Nat → Byte) : State :=
  { s with v := Vector.ofFn fun r : Fin 16 => if r ≤ x then f r.val else s.v[r] }

/-! Whole-value registers (10_state.md R39). -/

/-- `I <- w`. -/
def State.setI (s : State) (w : Word) : State := { s with i := w }

/-- `PC <- w`. -/
def State.setPc (s : State) (w : Word) : State := { s with pc := w }

/-- `PC <- (pc0 + 2) mod 65536` (00_scope.md R12, 40_dispatch.md R104 (a)). -/
def State.advance (s : State) : State := s.setPc (s.pc + 2)

/-- `PC <- c ? (pc0 + 4) mod 65536 : (pc0 + 2) mod 65536` (41_control_flow.md R130). -/
def State.skipIf (s : State) (c : Bool) : State := s.setPc (if c then s.pc + 4 else s.pc + 2)

/-- `DT <- b`. -/
def State.setDt (s : State) (b : Byte) : State := { s with dt := b }

/-- `ST <- b`. -/
def State.setSt (s : State) (b : Byte) : State := { s with st := b }

/-- `FB <- f`. -/
def State.setFb (s : State) (f : Framebuffer) : State := { s with fb := f }

/-- `FB[y][x]`. -/
def State.getFb (s : State) (y : Fin 32) (x : Fin 64) : Bool := s.fb[y][x]

/-! The return stack (10_state.md R26, R27). -/

/-- `STK[k]`. -/
def State.getStk (s : State) (k : Fin 16) : Word := s.stk[k]

/-- `STK[k] <- w`. -/
def State.setStk (s : State) (k : Fin 16) (w : Word) : State := { s with stk := s.stk.set k w }

/-- `SP <- k`. -/
def State.setSp (s : State) (k : Fin 16) : State := { s with sp := k }

/-- The push of `2NNN`: the pointer is incremented first, the cell written is the new `SP` (41_control_flow.md R123). -/
def State.push (s : State) (w : Word) : State := (s.setSp (s.sp + 1)).setStk (s.sp + 1) w

/-- `STK[SP]`, the most recent saved value. -/
def State.top (s : State) : Word := s.getStk s.sp

/-- The pop of `00EE`: the cell keeps its value (41_control_flow.md R121). -/
def State.pop (s : State) : State := s.setSp (s.sp - 1)

/-! Memory. -/

/-- `MEM[a]`. -/
def State.readMem (s : State) (a : Nat) : Byte := s.mem.read a

/-- Byte stores from `a` on (20_memory.md R56). -/
def State.storeBytes (s : State) (a : Nat) (bs : List Byte) : State := { s with mem := s.mem.writeBytes a bs }

/-! The draw of `CXNN` (00_scope.md R13). -/

/-- `rnd`, the free byte this step may use. -/
def State.draw (s : State) : Byte := Config.rnd s.draws

/-- The state after that byte has been used: the next draw is another free value (10_state.md R35). -/
def State.drawn (s : State) : State := { s with draws := s.draws + 1 }

/-! Taking a fault (60_exceptions.md R211, R212). -/

/-- `raise f`: `FAULT <- f`, every other element as it was (00_scope.md R11). There is no handler, no saved register, no
mode, and no return but `reset` (60_exceptions.md R211, R213). -/
def State.raise (s : State) (f : Fault) : State := { s with fault := some f }

/-- The step that ends in raising `f`. -/
def takeFault (f : Fault) (s : State) : Result := .next (s.raise f)

/-- The step of a halted machine: no fetch, no state change; the fault stays readable in `FAULT` (40_dispatch.md R100). -/
def stepHalted (s : State) : Result := .next s

/-- A step that touches the `n` addresses of `MEM` from `a` on and then leaves `t`: the whole span is checked before anything
is written (20_memory.md R59, 60_exceptions.md R204, R212). -/
def withSpan (s : State) (a n : Nat) (t : State) : Result :=
  match firstBadAddress a n with
  | some bad => takeFault (.addressFault s.pc bad) s
  | none => .next t

/-! Fetching (40_dispatch.md R101). -/

/-- The big-endian word at `a` (20_memory.md R55). -/
def State.wordAt (s : State) (a : Nat) : Word := wordOfBytes (s.readMem a) (s.readMem (a + 1))

/-- The opcode at `PC`, or the fault of a fetch that leaves `MEM` (40_dispatch.md R101). -/
def fetch (s : State) : Except Fault Word :=
  match firstBadAddress s.pc.toNat 2 with
  | some bad => .error (.addressFault s.pc bad)
  | none => .ok (s.wordAt s.pc.toNat)

/-- Can `PC` be fetched from? -/
def State.canFetch (s : State) : Bool := firstBadAddress s.pc.toNat 2 == none

/-- `s` set up so that its next step runs the word `w`: `w` is stored at `PC`, high byte first. A machine that would not
fetch there is first given what a fetch needs: no fault latched, and `PC` at the program base if it lies outside `MEM`
(assumption 9). -/
def State.placeWord (s : State) (w : Word) : State :=
  let s := { s with fault := none }
  let s := if s.canFetch then s else s.setPc (BitVec.ofNat 16 programBase)
  s.storeBytes s.pc.toNat (bytesOfWord w)

end Sys2Proof.Machine
end

