-- ==== Sys2Proof/Machine/Flags.lean ====
section
/-! DEFINITION. The flag computations (10_state.md R22) and the one order in which a flag and a result are written
(42_alu.md R153). -/

namespace Sys2Proof.Machine

/-- Carry out of an 8-bit addition: the true sum exceeds 255 (42_alu.md R146). -/
def flagCarry (a b : Byte) : Bool := 255 < a.toNat + b.toNat

/-- No borrow in `a - b`: `a >= b`, equality included (42_alu.md R147, R148). -/
def flagNoBorrow (a b : Byte) : Bool := b.toNat ≤ a.toNat

/-- The bit shifted out at the right: bit 0 (42_alu.md R149). -/
def flagBitOutRight (b : Byte) : Bool := b.getLsbD 0

/-- The bit shifted out at the left: bit 7 (42_alu.md R150). -/
def flagBitOutLeft (b : Byte) : Bool := b.getLsbD 7

/-- `VF` is written with the flag, then `V[x]` with the result, so that with `x = 0xF` the result is what stays
(42_alu.md R153). -/
def State.setFlagThenV (s : State) (x : Reg) (flag : Bool) (result : Byte) : State := (s.setFlag flag).setV x result

end Sys2Proof.Machine
end

