-- ==== Sys2Proof/Machine/Operands.lean ====
section
/-! DEFINITION. The operand forms: immediates, the latch, addresses through `I`, decimal digits (30_encoding.md R83,
44_input.md R173, 45_timer_memory.md R188). -/

namespace Sys2Proof.Machine

/-- `NNN` zero-extended to 16 bits (30_encoding.md R83). -/
def zext12 (nnn : Addr12) : Word := nnn.setWidth 16

/-- An 8-bit value zero-extended to 16 bits (00_scope.md R8). -/
def zext8 (b : Byte) : Word := b.setWidth 16

/-- A logical key as a register value, 0 to 15 (44_input.md R172). -/
def byteOfKey (k : Key) : Byte := BitVec.ofNat 8 k.val

/-- Does the latch hold the key numbered by all 8 bits of `b` (44_input.md R170; D21)? -/
def keyIs (key : Option Key) (b : Byte) : Bool :=
  match key with
  | some k => byteOfKey k == b
  | none => false

/-- The base address `I` as an unbounded integer (45_timer_memory.md R188). -/
def State.base (s : State) : Nat := s.i.toNat

/-- How many bytes `FX55` and `FX65` move: `X + 1` (45_timer_memory.md R186, R187). -/
def spanOfReg (x : Reg) : Nat := x.val + 1

/-- `I <- (I + X + 1) mod 65536` (45_timer_memory.md R186, R187; D8). -/
def State.advanceI (s : State) (x : Reg) : State := s.setI (s.i + BitVec.ofNat 16 (spanOfReg x))

/-- Hundreds, tens and units of `b` (45_timer_memory.md R185). -/
def decimalDigits (b : Byte) : List Byte :=
  [BitVec.ofNat 8 (b.toNat / 100), BitVec.ofNat 8 (b.toNat / 10 % 10), BitVec.ofNat 8 (b.toNat % 10)]

end Sys2Proof.Machine
end

