-- ==== Sys2Proof/Machine/Alu.lean ====
section
/-! DEFINITION. The register and ALU instructions (42_alu.md). -/

namespace Sys2Proof.Machine

/-- A register write and the normal advance: the shape of every instruction here that writes no flag. -/
def writeV (s : State) (x : Reg) (b : Byte) : Result := .next (s.setV x b).advance

/-- The five flag-writing instructions: flag, then destination, then the normal advance (R153). -/
def writeFlagThenV (s : State) (x : Reg) (flag : Bool) (b : Byte) : Result := .next (s.setFlagThenV x flag b).advance

/-- `6XNN` (R140). -/
def execLdImm (x : Reg) (nn : Byte) (s : State) : Result := writeV s x nn

/-- `7XNN` (R141): no flag (D24). -/
def execAddImm (x : Reg) (nn : Byte) (s : State) : Result := writeV s x (s.getV x + nn)

/-- `8XY0` (R142). -/
def execLdReg (x y : Reg) (s : State) : Result := writeV s x (s.getV y)

/-- `8XY1` (R143): no flag (D24). -/
def execOrReg (x y : Reg) (s : State) : Result := writeV s x (s.getV x ||| s.getV y)

/-- `8XY2` (R144): no flag (D24). -/
def execAndReg (x y : Reg) (s : State) : Result := writeV s x (s.getV x &&& s.getV y)

/-- `8XY3` (R145): no flag (D24). -/
def execXorReg (x y : Reg) (s : State) : Result := writeV s x (s.getV x ^^^ s.getV y)

/-- `8XY4` (R146). -/
def execAddReg (x y : Reg) (s : State) : Result :=
  writeFlagThenV s x (flagCarry (s.getV x) (s.getV y)) (s.getV x + s.getV y)

/-- `8XY5` (R147). -/
def execSubReg (x y : Reg) (s : State) : Result :=
  writeFlagThenV s x (flagNoBorrow (s.getV x) (s.getV y)) (s.getV x - s.getV y)

/-- `8XY7` (R148). -/
def execSubnReg (x y : Reg) (s : State) : Result :=
  writeFlagThenV s x (flagNoBorrow (s.getV y) (s.getV x)) (s.getV y - s.getV x)

/-- `8XY6` (R149): the source is `V[Y]`. -/
def execShrReg (x y : Reg) (s : State) : Result :=
  writeFlagThenV s x (flagBitOutRight (s.getV y)) (s.getV y >>> 1)

/-- `8XYE` (R150): the source is `V[Y]`. -/
def execShlReg (x y : Reg) (s : State) : Result :=
  writeFlagThenV s x (flagBitOutLeft (s.getV y)) (s.getV y <<< 1)

/-- `ANNN` (R151). -/
def execLdI (nnn : Addr12) (s : State) : Result := .next (s.setI (zext12 nnn)).advance

/-- `CXNN` (R152): the draw is a free value, and the next draw is another one. -/
def execRnd (x : Reg) (nn : Byte) (s : State) : Result := writeV s.drawn x (s.draw &&& nn)

end Sys2Proof.Machine
end

