-- ==== Sys2Proof/Machine/ControlFlow.lean ====
section
/-! DEFINITION. `00E0` and the control-flow instructions (41_control_flow.md). -/

namespace Sys2Proof.Machine

/-- `00E0` (R120): every framebuffer cell off. -/
def execCls (s : State) : Result := .next (s.setFb Framebuffer.blank).advance

/-- `00EE` (R121): the fault check comes first; `PC` takes the saved value exactly. -/
def execRet (s : State) : Result :=
  if s.sp = 0 then takeFault (.stackUnderflow s.pc) s else .next (s.pop.setPc s.top)

/-- `1NNN` (R122). -/
def execJp (nnn : Addr12) (s : State) : Result := .next (s.setPc (zext12 nnn))

/-- `2NNN` (R123): the value saved is `pc0 + 2` (D4). -/
def execCall (nnn : Addr12) (s : State) : Result :=
  if s.sp = 15 then takeFault (.stackOverflow s.pc) s else .next ((s.push (s.pc + 2)).setPc (zext12 nnn))

/-- `BNNN` (R124): the sum is not reduced modulo 4096 (D23). -/
def execJpV0 (nnn : Addr12) (s : State) : Result := .next (s.setPc (zext12 nnn + zext8 (s.getV 0)))

/-- `3XNN` (R125). -/
def execSeImm (x : Reg) (nn : Byte) (s : State) : Result := .next (s.skipIf (s.getV x == nn))

/-- `4XNN` (R126). -/
def execSneImm (x : Reg) (nn : Byte) (s : State) : Result := .next (s.skipIf (s.getV x != nn))

/-- `5XY0` (R127). -/
def execSeReg (x y : Reg) (s : State) : Result := .next (s.skipIf (s.getV x == s.getV y))

/-- `9XY0` (R128). -/
def execSneReg (x y : Reg) (s : State) : Result := .next (s.skipIf (s.getV x != s.getV y))

end Sys2Proof.Machine
end

