-- ==== Sys2Proof/Machine/Display.lean ====
section
/-! DEFINITION. The XOR raster and `DXYN` (43_display.md). -/

namespace Sys2Proof.Machine

/-- A framebuffer being drawn on, and whether a cell that was on has been turned off (R160). -/
structure Raster where
  fb : Framebuffer
  hit : Bool
  deriving DecidableEq, Repr

/-- The row a vertical coordinate falls on: modulo 32, each pixel by itself (R160, R162). -/
def wrapRow (y : Nat) : Fin 32 := Fin.ofNat 32 y

/-- The column a horizontal coordinate falls on: modulo 64, each pixel by itself (R160, R162). -/
def wrapCol (x : Nat) : Fin 64 := Fin.ofNat 64 x

/-- One set sprite bit: the cell is toggled, and turning it off is a collision (R160). -/
def togglePixel (y x : Nat) (c : Raster) : Raster where
  fb := c.fb.set (wrapRow y) (c.fb[wrapRow y].set (wrapCol x) (!c.fb[wrapRow y][wrapCol x]))
  hit := c.hit || c.fb[wrapRow y][wrapCol x]

/-- Bit `7 - col` of sprite byte `b`, drawn at column `x0 + col` of row `y` (R160, R162). -/
def drawBit (b : Byte) (x0 y : Nat) (c : Raster) (col : Nat) : Raster :=
  if b.getLsbD (7 - col) then togglePixel y (x0 + col) c else c

/-- One sprite row: columns 0 to 7, the most significant bit leftmost (R160). -/
def drawRow (b : Byte) (x0 y : Nat) (c : Raster) : Raster := (List.range 8).foldl (drawBit b x0 y) c

/-- The sprite rows, top to bottom, the first at row `y` (R160). -/
def drawRows (x0 : Nat) : Nat → List Byte → Raster → Raster
  | _, [], c => c
  | y, b :: bs, c => drawRows x0 (y + 1) bs (drawRow b x0 y c)

/-- The sprite bytes of `DXYN`: `MEM[I]` to `MEM[I + N - 1]` (R160). -/
def State.sprite (s : State) (n : Nibble) : List Byte := s.mem.readBytes s.base n.toNat

/-- What `DXYN` draws: the coordinates are read before `VF` is reset (R163; D10), and no collision has happened yet. -/
def State.rasterAfter (s : State) (x y : Reg) (n : Nibble) : Raster :=
  drawRows (s.getV x).toNat (s.getV y).toNat (s.sprite n) { fb := s.fb, hit := false }

/-- `DXYN` (R160): `VF` is always written, with the collision; `I` is not changed. -/
def execDrw (x y : Reg) (n : Nibble) (s : State) : Result :=
  withSpan s s.base n.toNat ((s.setFlag (s.rasterAfter x y n).hit).setFb (s.rasterAfter x y n).fb).advance

end Sys2Proof.Machine
end

