-- ==== Sys2Proof/Machine/Input.lean ====
section
/-! DEFINITION. The input instructions: each samples the latch once and none writes it (44_input.md R173; D11). -/

namespace Sys2Proof.Machine

/-- `EX9E` (R170). -/
def execSkp (x : Reg) (s : State) : Result := .next (s.skipIf (keyIs s.key (s.getV x)))

/-- `EXA1` (R171): the exact complement of `EX9E`. -/
def execSknp (x : Reg) (s : State) : Result := .next (s.skipIf (!keyIs s.key (s.getV x)))

/-- `FX0A` (R172): with no key latched nothing changes, and the next step fetches the same word again. -/
def execLdVxK (x : Reg) (s : State) : Result :=
  match s.key with
  | none => .next s
  | some k => .next (s.setV x (byteOfKey k)).advance

end Sys2Proof.Machine
end

