-- ==== Sys2Proof/Machine/TimerMemory.lean ====
section
/-! DEFINITION. The timer and memory instructions of family F (45_timer_memory.md). -/

namespace Sys2Proof.Machine

/-- `FX07` (R180). -/
def execLdVxDt (x : Reg) (s : State) : Result := .next (s.setV x s.dt).advance

/-- `FX15` (R181). -/
def execLdDtVx (x : Reg) (s : State) : Result := .next (s.setDt (s.getV x)).advance

/-- `FX18` (R182). -/
def execLdStVx (x : Reg) (s : State) : Result := .next (s.setSt (s.getV x)).advance

/-- `FX1E` (R183): modulo 65536 (D8), no flag (D24). -/
def execAddI (x : Reg) (s : State) : Result := .next (s.setI (s.i + zext8 (s.getV x))).advance

/-- `FX29` (R184): all 8 bits of `V[X]` are multiplied (D22). -/
def execLdF (x : Reg) (s : State) : Result := .next (s.setI (zext8 (s.getV x) * 5)).advance

/-- `FX33` (R185): `I` is not changed. -/
def execLdB (x : Reg) (s : State) : Result :=
  withSpan s s.base 3 (s.storeBytes s.base (decimalDigits (s.getV x))).advance

/-- `FX55` (R186). -/
def execLdMemVx (x : Reg) (s : State) : Result :=
  withSpan s s.base (spanOfReg x) ((s.storeBytes s.base (s.lowRegs x)).advanceI x).advance

/-- `FX65` (R187): the addresses are those of the old `I`. -/
def execLdVxMem (x : Reg) (s : State) : Result :=
  withSpan s s.base (spanOfReg x) ((s.setLowRegs x fun r => s.readMem (s.base + r)).advanceI x).advance

end Sys2Proof.Machine
end

