-- ==== Sys2Proof/Machine/Undefined.lean ====
section
/-! DEFINITION. The undefined opcodes (40_dispatch.md R106). -/

namespace Sys2Proof.Machine

/-- `UNDEF` (R106): a no-op, whatever the word; only `PC` advances. -/
def execUndef (_w : Word) (s : State) : Result := .next s.advance

end Sys2Proof.Machine
end

