-- ==== Sys2Proof/Machine/Step.lean ====
section
/-! DEFINITION. The `step` operation: one fetch, one decode, one instruction (40_dispatch.md R100 to R105). -/

namespace Sys2Proof.Machine

/-- One step: nothing on a halted machine (R100), else the fetch with its fault (R101), then the decoded instruction
(R102, R103). The instruction itself writes `PC`, so nothing stands around `exec` (R104). -/
def step (s : State) : Host.Outcome State Fault Refusal :=
  match s.fault with
  | some _ => stepHalted s
  | none =>
    match fetch s with
    | .error f => takeFault f s
    | .ok w => exec (decode w) s

/-- `s` with the table's instruction stored where the next step fetches it (assumption 9). -/
def State.withFetchWord (s : State) (nbits w : Nat) : State := s.placeWord (tableWord nbits w)

end Sys2Proof.Machine
end

