-- ==== Sys2Proof/Machine/External.lean ====
section
/-! DEFINITION. The operations of the other agents, and the machine as a sequence of atomic operations in any order
(00_scope.md R2, R14; 60_exceptions.md R225; 70_reset_and_hazards.md R249). -/

namespace Sys2Proof.Machine

/-- The largest program `load` accepts: 4096 - 512 bytes (00_scope.md R5). -/
def maxProgram : Nat := memSize - programBase

/-- The machine at power-on with `KEY_INIT = k`, after its first `reset` (70_reset_and_hazards.md R241). -/
def State.powerOn (k : Option Key) : State := { State.reset with key := k }

/-- The `reset` operation: every element to its reset value but `KEY` (70_reset_and_hazards.md R240, R242). The model's
draw counter goes on: `reset` has no defined effect on the random source (10_state.md R35; assumption 7). -/
def State.applyReset (s : State) : State := { State.reset with key := s.key, draws := s.draws }

/-- `load(bytes)`: nothing on a halted machine, `ROM_TOO_LARGE` and no byte written if too long, else the bytes at 0x200 and
nothing besides (70_reset_and_hazards.md R243 to R245). -/
def State.load (s : State) (bytes : List Byte) : State :=
  if s.fault.isSome then s
  else if maxProgram < bytes.length then s.raise (.romTooLarge bytes.length)
  else s.storeBytes programBase bytes

/-- One decrement with floor 0 (60_exceptions.md R216). -/
def countDown (b : Byte) : Byte := if b = 0 then 0 else b - 1

/-- `dec_delay` (60_exceptions.md R216). -/
def State.decDelay (s : State) : State := s.setDt (countDown s.dt)

/-- `dec_sound` (60_exceptions.md R216). -/
def State.decSound (s : State) : State := s.setSt (countDown s.st)

/-- `set_key(k)`: its argument has exactly the 17 values of the latch (60_exceptions.md R219; D18). -/
def State.setKey (s : State) (k : Option Key) : State := { s with key := k }

/-- The operations that act on the machine, one constructor each (00_scope.md R2, R14). -/
inductive Operation where
  /-- The engine's `step` (40_dispatch.md R100). -/
  | step
  /-- The loader's `reset` (R240). -/
  | reset
  /-- The loader's `load` (R243). -/
  | load (bytes : List Byte)
  /-- The tick driver's `dec_delay` (R216). -/
  | decDelay
  /-- The tick driver's `dec_sound` (R216). -/
  | decSound
  /-- The input collaborator's `set_key` (R219). -/
  | setKey (k : Option Key)
  deriving DecidableEq, Repr

/-- One atomic operation. -/
def perform (op : Operation) (s : State) : Result :=
  match op with
  | .step => Sys2Proof.Machine.step s
  | .reset => .next s.applyReset
  | .load bytes => .next (s.load bytes)
  | .decDelay => .next s.decDelay
  | .decSound => .next s.decSound
  | .setKey k => .next (s.setKey k)

/-- A schedule: operations one after another (00_scope.md R6, R14); every interleaving is some list. -/
def performAll : List Operation → State → Result
  | [], s => .next s
  | op :: ops, s =>
    match perform op s with
    | .next t => performAll ops t
    | .fault f => .fault f
    | .refused r => .refused r

/-! What observers read between operations (70_reset_and_hazards.md R249). -/

/-- The framebuffer, row-major, `(0,0)` top-left: cell `(x, y)` is element `y * 64 + x` (10_state.md R29, 60_exceptions.md R220). -/
def State.exportFb (s : State) : List Bool := s.fb.toList.flatMap fun row => row.toList

/-- `DT` as exported (60_exceptions.md R217). -/
def State.exportDt (s : State) : Byte := s.dt

/-- `ST` as exported (60_exceptions.md R217). -/
def State.exportSt (s : State) : Byte := s.st

/-- `tone = (ST > 0)` (60_exceptions.md R217). -/
def State.tone (s : State) : Bool := s.st != 0

/-- The fault report after `step` or `load`: the value of `FAULT` (40_dispatch.md R108, 70_reset_and_hazards.md R249). -/
def State.faultReport (s : State) : Option Fault := s.fault

/-- The spec's label of a fault (60_exceptions.md R200, R206; D16). -/
def faultCode : Option Fault → Nat
  | none => 0
  | some (.romTooLarge _) => 1
  | some (.stackOverflow _) => 2
  | some (.stackUnderflow _) => 3
  | some (.addressFault _ _) => 4

end Sys2Proof.Machine
end

