-- ==== Sys2Proof/Safety.lean ====
section
/-! DEFINITION. The terms claims use: safe and finished states, invariants, frames, and the spec's tables of what each
instruction writes, where it leaves `PC` and when it faults, transcribed apart from the meanings. -/

namespace Sys2Proof.Machine

/-! Safe and finished (60_exceptions.md R211, 70_reset_and_hazards.md R251). -/

/-- No fault has been raised: part of every claim that a program runs correctly (60_exceptions.md R211). -/
def Safe (s : State) : Prop := s.fault = none

/-- A finished state: no fault, and the word at `PC` is a jump to `PC` (70_reset_and_hazards.md R251; D26). -/
def Finished (s : State) : Prop :=
  s.fault = none ∧ ∃ nnn : Addr12, fetch s = .ok (encode (.jp nnn)) ∧ zext12 nnn = s.pc

/-! Invariants. -/

/-- The bounds of 10_state.md R25 and 41_control_flow.md R121: `PC` is at most 0x10FE, a saved `PC` at most 0x1000. -/
def PcBounded (s : State) : Prop := s.pc.toNat ≤ 0x10FE ∧ ∀ k, (s.getStk k).toNat ≤ 0x1000

/-- What every operation keeps: memory in canonical form and `PC` bounded. -/
def Inv (s : State) : Prop := s.mem.wf ∧ PcBounded s

/-! Frames. -/

/-- The pieces of the state, one by one (10_state.md R20). -/
inductive Element where
  | v (r : Reg)
  | i
  | pc
  | sp
  | stk (k : Fin 16)
  | mem (a : Nat)
  | fb (y : Fin 32) (x : Fin 64)
  | dt
  | st
  | key
  | fault
  | draws
  deriving DecidableEq, Repr

/-- The piece `e` of `t` is that of `s`. -/
def Same (s t : State) : Element → Prop
  | .v r => t.getV r = s.getV r
  | .i => t.i = s.i
  | .pc => t.pc = s.pc
  | .sp => t.sp = s.sp
  | .stk k => t.getStk k = s.getStk k
  | .mem a => t.readMem a = s.readMem a
  | .fb y x => t.getFb y x = s.getFb y x
  | .dt => t.dt = s.dt
  | .st => t.st = s.st
  | .key => t.key = s.key
  | .fault => t.fault = s.fault
  | .draws => t.draws = s.draws

/-- From `s` to `t` nothing changed but, perhaps, the pieces in `touched`. -/
def OnlyTouches (s t : State) (touched : Element → Prop) : Prop := ∀ e, ¬ touched e → Same s t e

/-- Nothing changed but `PC` and, perhaps, the pieces listed. -/
def OnlyPcAnd (s t : State) (es : List Element) : Prop := OnlyTouches s t fun e => e = .pc ∨ e ∈ es

/-! The opcode map (30_encoding.md R85). -/

/-- One row: a word `w` is the instruction iff `w AND mask = pattern`, and then it is `instr w`. -/
structure OpcodeRow where
  mask : Word
  pattern : Word
  instr : Word → Instr

/-- The 34 rows, in the table's order. -/
def opcodeMap : List OpcodeRow :=
  [ ⟨0xFFFF, 0x00E0, fun _ => .cls⟩,
    ⟨0xFFFF, 0x00EE, fun _ => .ret⟩,
    ⟨0xF000, 0x1000, fun w => .jp (fieldNNN w)⟩,
    ⟨0xF000, 0x2000, fun w => .call (fieldNNN w)⟩,
    ⟨0xF000, 0x3000, fun w => .seImm (fieldX w) (fieldNN w)⟩,
    ⟨0xF000, 0x4000, fun w => .sneImm (fieldX w) (fieldNN w)⟩,
    ⟨0xF00F, 0x5000, fun w => .seReg (fieldX w) (fieldY w)⟩,
    ⟨0xF000, 0x6000, fun w => .ldImm (fieldX w) (fieldNN w)⟩,
    ⟨0xF000, 0x7000, fun w => .addImm (fieldX w) (fieldNN w)⟩ ] ++
  [ ⟨0xF00F, 0x8000, fun w => .ldReg (fieldX w) (fieldY w)⟩,
    ⟨0xF00F, 0x8001, fun w => .orReg (fieldX w) (fieldY w)⟩,
    ⟨0xF00F, 0x8002, fun w => .andReg (fieldX w) (fieldY w)⟩,
    ⟨0xF00F, 0x8003, fun w => .xorReg (fieldX w) (fieldY w)⟩,
    ⟨0xF00F, 0x8004, fun w => .addReg (fieldX w) (fieldY w)⟩,
    ⟨0xF00F, 0x8005, fun w => .subReg (fieldX w) (fieldY w)⟩,
    ⟨0xF00F, 0x8006, fun w => .shrReg (fieldX w) (fieldY w)⟩,
    ⟨0xF00F, 0x8007, fun w => .subnReg (fieldX w) (fieldY w)⟩,
    ⟨0xF00F, 0x800E, fun w => .shlReg (fieldX w) (fieldY w)⟩ ] ++
  [ ⟨0xF00F, 0x9000, fun w => .sneReg (fieldX w) (fieldY w)⟩,
    ⟨0xF000, 0xA000, fun w => .ldI (fieldNNN w)⟩,
    ⟨0xF000, 0xB000, fun w => .jpV0 (fieldNNN w)⟩,
    ⟨0xF000, 0xC000, fun w => .rnd (fieldX w) (fieldNN w)⟩,
    ⟨0xF000, 0xD000, fun w => .drw (fieldX w) (fieldY w) (fieldN w)⟩,
    ⟨0xF0FF, 0xE09E, fun w => .skp (fieldX w)⟩,
    ⟨0xF0FF, 0xE0A1, fun w => .sknp (fieldX w)⟩ ] ++
  [ ⟨0xF0FF, 0xF007, fun w => .ldVxDt (fieldX w)⟩,
    ⟨0xF0FF, 0xF00A, fun w => .ldVxK (fieldX w)⟩,
    ⟨0xF0FF, 0xF015, fun w => .ldDtVx (fieldX w)⟩,
    ⟨0xF0FF, 0xF018, fun w => .ldStVx (fieldX w)⟩,
    ⟨0xF0FF, 0xF01E, fun w => .addI (fieldX w)⟩,
    ⟨0xF0FF, 0xF029, fun w => .ldF (fieldX w)⟩,
    ⟨0xF0FF, 0xF033, fun w => .ldB (fieldX w)⟩,
    ⟨0xF0FF, 0xF055, fun w => .ldMemVx (fieldX w)⟩,
    ⟨0xF0FF, 0xF065, fun w => .ldVxMem (fieldX w)⟩ ]

/-- The decoder reads exactly the words of the row as the row's instruction. -/
def OpcodeRow.Decodes (row : OpcodeRow) : Prop := ∀ w : Word, w &&& row.mask = row.pattern ↔ decode w = row.instr w

/-! Tables over the instructions. -/

/-- The pieces an instruction may write when it does not fault: the `w` cells of the access matrix 10_state.md R40, with the
addresses and cells of the rules it cites. `PC` is written by every step (R25). -/
def mayWrite (i : Instr) (s : State) (e : Element) : Prop :=
  e = .pc ∨
  match i with
  | .cls => ∃ y x, e = .fb y x
  | .ret => e = .sp
  | .jp _ => False
  | .call _ => e = .sp ∨ e = .stk (s.sp + 1)
  | .seImm _ _ => False
  | .sneImm _ _ => False
  | .seReg _ _ => False
  | .ldImm x _ => e = .v x
  | .addImm x _ => e = .v x
  | .ldReg x _ => e = .v x
  | .orReg x _ => e = .v x
  | .andReg x _ => e = .v x
  | .xorReg x _ => e = .v x
  | .addReg x _ => e = .v x ∨ e = .v regVF
  | .subReg x _ => e = .v x ∨ e = .v regVF
  | .shrReg x _ => e = .v x ∨ e = .v regVF
  | .subnReg x _ => e = .v x ∨ e = .v regVF
  | .shlReg x _ => e = .v x ∨ e = .v regVF
  | .sneReg _ _ => False
  | .ldI _ => e = .i
  | .jpV0 _ => False
  | .rnd x _ => e = .v x ∨ e = .draws
  | .drw _ _ _ => e = .v regVF ∨ ∃ y x, e = .fb y x
  | .skp _ => False
  | .sknp _ => False
  | .ldVxDt x => e = .v x
  | .ldVxK x => e = .v x
  | .ldDtVx _ => e = .dt
  | .ldStVx _ => e = .st
  | .addI _ => e = .i
  | .ldF _ => e = .i
  | .ldB _ => ∃ k, k < 3 ∧ e = .mem (s.base + k)
  | .ldMemVx x => e = .i ∨ ∃ k, k ≤ x.val ∧ e = .mem (s.base + k)
  | .ldVxMem x => e = .i ∨ ∃ r, r ≤ x ∧ e = .v r
  | .undef _ => False

/-- The fault an instruction raises, if it raises one (the table of 60_exceptions.md R200, with the records of R201 to R204). -/
def faultOf (i : Instr) (s : State) : Option Fault :=
  match i with
  | .ret => if s.sp = 0 then some (.stackUnderflow s.pc) else none
  | .call _ => if s.sp = 15 then some (.stackOverflow s.pc) else none
  | .drw _ _ n => if 0 < n.toNat ∧ 0xFFF < s.i.toNat + n.toNat - 1 then some (.addressFault s.pc (max s.i.toNat 0x1000)) else none
  | .ldB _ => if 0xFFF < s.i.toNat + 2 then some (.addressFault s.pc (max s.i.toNat 0x1000)) else none
  | .ldMemVx x => if 0xFFF < s.i.toNat + x.val then some (.addressFault s.pc (max s.i.toNat 0x1000)) else none
  | .ldVxMem x => if 0xFFF < s.i.toNat + x.val then some (.addressFault s.pc (max s.i.toNat 0x1000)) else none
  | .cls | .jp _ | .seImm _ _ | .sneImm _ _ | .seReg _ _ | .ldImm _ _ | .addImm _ _ | .ldReg _ _ | .orReg _ _ | .andReg _ _
  | .xorReg _ _ | .addReg _ _ | .subReg _ _ | .shrReg _ _ | .subnReg _ _ | .shlReg _ _ | .sneReg _ _ | .ldI _ | .jpV0 _
  | .rnd _ _ | .skp _ | .sknp _ | .ldVxDt _ | .ldVxK _ | .ldDtVx _ | .ldStVx _ | .addI _ | .ldF _ | .undef _ => none

/-- Where an instruction that does not fault leaves `PC` (the table of 10_state.md R25), on unbounded integers. -/
def pcAfter (i : Instr) (s : State) : Nat :=
  let skip (c : Bool) : Nat := if c then (s.pc.toNat + 4) % 65536 else (s.pc.toNat + 2) % 65536
  match i with
  | .jp nnn => nnn.toNat
  | .call nnn => nnn.toNat
  | .ret => (s.getStk s.sp).toNat
  | .jpV0 nnn => nnn.toNat + (s.getV 0).toNat
  | .seImm x nn => skip (s.getV x = nn)
  | .sneImm x nn => skip (s.getV x ≠ nn)
  | .seReg x y => skip (s.getV x = s.getV y)
  | .sneReg x y => skip (s.getV x ≠ s.getV y)
  | .skp x => skip (∃ k : Key, s.key = some k ∧ k.val = (s.getV x).toNat)
  | .sknp x => skip (¬ ∃ k : Key, s.key = some k ∧ k.val = (s.getV x).toNat)
  | .ldVxK _ => if s.key = none then s.pc.toNat else (s.pc.toNat + 2) % 65536
  | .cls | .ldImm _ _ | .addImm _ _ | .ldReg _ _ | .orReg _ _ | .andReg _ _ | .xorReg _ _ | .addReg _ _ | .subReg _ _
  | .shrReg _ _ | .subnReg _ _ | .shlReg _ _ | .ldI _ | .rnd _ _ | .drw _ _ _ | .ldVxDt _ | .ldDtVx _ | .ldStVx _ | .addI _
  | .ldF _ | .ldB _ | .ldMemVx _ | .ldVxMem _ | .undef _ => (s.pc.toNat + 2) % 65536

/-! The sprite mask (43_display.md R161, R162). -/

/-- The cell at `row`, `col` is in the sprite mask `S`: some set bit `7 - c` of some sprite byte `MEM[I + r]` falls on it. -/
def spriteCovers (s : State) (x y : Reg) (n : Nibble) (row : Fin 32) (col : Fin 64) : Prop :=
  ∃ r c, r < n.toNat ∧ c < 8 ∧ (s.readMem (s.base + r)).getLsbD (7 - c) = true ∧
    row.val = ((s.getV y).toNat + r) % 32 ∧ col.val = ((s.getV x).toNat + c) % 64

/-- A step that ends well, mapped: used to compare two runs that differ in one piece of the state. -/
def Result.mapState (f : State → State) : Result → Result
  | .next t => .next (f t)
  | .fault r => .fault r
  | .refused r => .refused r

end Sys2Proof.Machine
end

