-- ==== Sys2Proof/Certificates/Slice0/Obligations.lean ====
section
/-! DEFINITION. The statements for the provers. Each docstring names the rules of spec/ it formalises; where a clause rests on
a decision the spec marks as its own (D<n> of 92_eei_decisions.md) or on an entry of the assumption log, it says so. -/

open Sys2Proof Sys2Proof.Machine

/-! Encoding. -/

/-- Decode and encode agree: every well-formed instruction, with every operand at every value its encoding admits, is read
back from its word and from the bytes of its word (30_encoding.md R81 to R85). -/
def Obligations.DecodeOfEncodeIsIdentity : Prop :=
  ∀ i : Instr, WellFormed i → decode (encode i) = i ∧ decodeBytes (bytesOfWord (encode i)) = .ok (i, [])

/-- Every word has one meaning: what it decodes to is well formed and encodes to it (30_encoding.md R84). -/
def Obligations.EncodeOfDecodeIsIdentity : Prop :=
  ∀ w : Word, WellFormed (decode w) ∧ encode (decode w) = w

/-- The two-level decoder is the opcode map: each of the 34 rows holds exactly of the words it matches, no word matches two
rows, and the words that match none are `UNDEF` (30_encoding.md R84, R85; literal nibbles by decision D9). -/
def Obligations.DecoderIsTheOpcodeMap : Prop :=
  (∀ row ∈ opcodeMap, row.Decodes) ∧
  (∀ w : Word, ∀ row ∈ opcodeMap, ∀ row' ∈ opcodeMap, w &&& row.mask = row.pattern → w &&& row'.mask = row'.pattern →
    row.mask = row'.mask ∧ row.pattern = row'.pattern) ∧
  (∀ w : Word, (∀ row ∈ opcodeMap, w &&& row.mask ≠ row.pattern) ↔ decode w = .undef w)

/-- The undefined words are those of the table of 30_encoding.md R86 (literal nibbles by decision D9). -/
def Obligations.UndefinedWordsAreTheListedOnes : Prop :=
  ∀ w : Word, decode w = .undef w ↔ isUndefinedWord w = true

/-- A few words written out from the spec's encodings decode to what they stand for (30_encoding.md R81, R85; 95_test_vectors.md).
0x0000 is an undefined word of R86; that 0x5121 is one, and not `5XY0`, is the spec's own decision D9 (R87; vector T3;
assumption 8, unsafe). -/
def Obligations.SampleWordsDecode : Prop :=
  decode 0x00E0 = .cls ∧ decode 0x00EE = .ret ∧ decode 0x220A = .call 0x20A ∧ decode 0x3A42 = .seImm 0xA 0x42 ∧
  decode 0x8126 = .shrReg 1 2 ∧ decode 0xD7A3 = .drw 7 0xA 3 ∧ decode 0xE49E = .skp 4 ∧ decode 0xF30A = .ldVxK 3 ∧
  decode 0xF355 = .ldMemVx 3 ∧ decode 0x5121 = .undef 0x5121 ∧ decode 0x0000 = .undef 0x0000

/-! The step. -/

/-- 20_memory.md R55: the fetched word is big-endian, and its fields are the nibbles and bytes the rule names. -/
def Obligations.FetchIsBigEndian : Prop :=
  ∀ s : State, s.pc.toNat ≤ 0xFFE →
    ∃ w, fetch s = .ok w ∧
      w.toNat = (s.readMem s.pc.toNat).toNat * 256 + (s.readMem (s.pc.toNat + 1)).toNat ∧
      (fieldFamily w).toNat = (s.readMem s.pc.toNat).toNat / 16 ∧
      (fieldX w).val = (s.readMem s.pc.toNat).toNat % 16 ∧
      (fieldY w).val = (s.readMem (s.pc.toNat + 1)).toNat / 16 ∧
      (fieldN w).toNat = (s.readMem (s.pc.toNat + 1)).toNat % 16 ∧
      fieldNN w = s.readMem (s.pc.toNat + 1)

/-- A step runs the decoded instruction: with no fault latched and `PC` inside memory, if the two bytes at `PC` decode to `i`
then the step is `exec i` on the same state; nothing stands around it, and no delay slot or second counter exists
(40_dispatch.md R100 to R104). -/
def Obligations.StepRunsTheDecodedInstruction : Prop :=
  ∀ (s : State) (i : Instr), s.fault = none → s.pc.toNat ≤ 0xFFE →
    decodeBytes (s.mem.readBytes s.pc.toNat 2) = .ok (i, []) → step s = exec i s

/-- 40_dispatch.md R101 (decision D1): a fetch outside memory raises `ADDRESS_FAULT` with the lowest bad address and changes
nothing else. -/
def Obligations.FetchOutsideMemoryFaults : Prop :=
  ∀ s : State, s.fault = none → 0xFFF ≤ s.pc.toNat →
    step s = .next { s with fault := some (.addressFault s.pc (max s.pc.toNat 0x1000)) }

/-- 40_dispatch.md R100, 60_exceptions.md R211 (decisions D2, D19; assumption 1): `step` and `load` do nothing on a halted
machine. -/
def Obligations.HaltedMachineDoesNothing : Prop :=
  ∀ s : State, s.fault ≠ none → step s = .next s ∧ ∀ bytes, perform (.load bytes) s = .next s

/-- Every step of every state completes: no word is refused and no instruction stops the model (30_encoding.md R84, R91,
40_dispatch.md R105; a fault is a next state, assumption 1). -/
def Obligations.EveryStepCompletes : Prop := ∀ s : State, ∃ t, step s = .next t

/-- 60_exceptions.md R200 to R204, R210, R212 (decisions D1 to D3, D5; assumption 1): an instruction raises exactly the fault
of the table, and then nothing but `FAULT` has changed. -/
def Obligations.FaultsAreExactlyTheListedOnes : Prop :=
  ∀ (i : Instr) (s : State), s.fault = none →
    ∃ t, exec i s = .next t ∧ t.fault = faultOf i s ∧ (faultOf i s ≠ none → t = { s with fault := faultOf i s })

/-- 10_state.md R25: where each instruction that does not fault leaves `PC`. -/
def Obligations.PcFollowsTheTable : Prop :=
  ∀ (i : Instr) (s : State), faultOf i s = none → ∃ t, exec i s = .next t ∧ t.pc.toNat = pcAfter i s

/-- 10_state.md R40: an instruction that does not fault writes nothing outside the cells the access matrix gives it. The
premise is the invariant `StepKeepsMemoryCanonical`. -/
def Obligations.WritesFollowTheAccessMatrix : Prop :=
  ∀ (i : Instr) (s t : State), s.mem.wf → faultOf i s = none → exec i s = .next t → OnlyTouches s t (mayWrite i s)

/-- 44_input.md R173: only `EX9E`, `EXA1` and `FX0A` read the latch, and no instruction writes it (decision D11): any other
instruction does the same whatever the latch holds. -/
def Obligations.OnlyInputInstructionsReadTheLatch : Prop :=
  ∀ (i : Instr) (s : State) (k : Option Key), (∀ x, i ≠ .skp x ∧ i ≠ .sknp x ∧ i ≠ .ldVxK x) →
    exec i (s.setKey k) = Result.mapState (fun t => t.setKey k) (exec i s)

/-- 10_state.md R30, R31, R40: no instruction reads `ST`, and only `FX07` reads `DT`: what an instruction leaves elsewhere
does not depend on them. -/
def Obligations.TimersAreReadOnlyByFX07 : Prop :=
  ∀ (i : Instr) (s : State) (b c : Byte),
    Result.mapState (fun t => t.setSt c) (exec i (s.setSt b)) = Result.mapState (fun t => t.setSt c) (exec i s) ∧
    ((∀ x, i ≠ .ldVxDt x) →
      Result.mapState (fun t => t.setDt c) (exec i (s.setDt b)) = Result.mapState (fun t => t.setDt c) (exec i s))

/-! Control flow. -/

/-- 41_control_flow.md R120, `00E0`. -/
def Obligations.ClearScreenTurnsEveryCellOff : Prop :=
  OpcodeRow.Decodes ⟨0xFFFF, 0x00E0, fun _ => .cls⟩ ∧
  ∀ s : State, ∃ t, exec .cls s = .next t ∧ (∀ y x, t.getFb y x = false) ∧ t.pc = s.pc + 2 ∧
    OnlyTouches s t fun e => e = .pc ∨ ∃ y x, e = .fb y x

/-- 41_control_flow.md R121, `00EE` with a call outstanding (the saved value by decision D4). -/
def Obligations.ReturnPopsTheStack : Prop :=
  ∀ s : State, s.sp ≠ 0 → ∃ t, exec .ret s = .next t ∧ t.pc = s.getStk s.sp ∧ t.sp.val = s.sp.val - 1 ∧ OnlyPcAnd s t [.sp]

/-- 41_control_flow.md R123, `2NNN` with a level left (the saved value is `pc0 + 2` by decision D4). -/
def Obligations.CallPushesTheReturnAddress : Prop :=
  ∀ (nnn : Addr12) (s : State), s.sp ≠ 15 →
    ∃ t, exec (.call nnn) s = .next t ∧ t.sp.val = s.sp.val + 1 ∧ t.getStk t.sp = s.pc + 2 ∧ t.pc.toNat = nnn.toNat ∧
      OnlyPcAnd s t [.sp, .stk t.sp]

/-- 60_exceptions.md R201, R202 (decision D5; assumption 1): `2NNN` at `SP = 15` and `00EE` at `SP = 0` raise their fault and
change nothing else. -/
def Obligations.StackLimitsFault : Prop :=
  ∀ s : State,
    (∀ nnn, s.sp = 15 → exec (.call nnn) s = .next { s with fault := some (.stackOverflow s.pc) }) ∧
    (s.sp = 0 → exec .ret s = .next { s with fault := some (.stackUnderflow s.pc) })

/-- 41_control_flow.md R122, `1NNN`: the jump; a jump to itself changes nothing at all; a jump to 0xFFF makes the next step
fault at fetch. -/
def Obligations.JumpSetsPc : Prop :=
  OpcodeRow.Decodes ⟨0xF000, 0x1000, fun w => .jp (fieldNNN w)⟩ ∧
  ∀ (nnn : Addr12) (s : State), ∃ t, exec (.jp nnn) s = .next t ∧ t.pc.toNat = nnn.toNat ∧ OnlyPcAnd s t [] ∧
    (nnn.toNat = s.pc.toNat → t = s) ∧
    (nnn = 0xFFF → s.fault = none → ∃ u, step t = .next u ∧ u.fault = some (.addressFault 0xFFF 0x1000))

/-- 41_control_flow.md R124, `BNNN` (no reduction, decision D23; the fault of the next step, decision D1). -/
def Obligations.JumpWithOffsetAddsV0 : Prop :=
  ∀ (nnn : Addr12) (s : State), ∃ t, exec (.jpV0 nnn) s = .next t ∧ t.pc.toNat = nnn.toNat + (s.getV 0).toNat ∧
    OnlyPcAnd s t [] ∧
    (0xFFF ≤ nnn.toNat + (s.getV 0).toNat → s.fault = none →
      ∃ u, step t = .next u ∧ u.fault = some (.addressFault t.pc (max t.pc.toNat 0x1000)))

/-- 41_control_flow.md R125, R126: the skips on a register and an immediate, `3XNN` and `4XNN`. -/
def Obligations.SkipsCompareImmediates : Prop :=
  OpcodeRow.Decodes ⟨0xF000, 0x3000, fun w => .seImm (fieldX w) (fieldNN w)⟩ ∧
  OpcodeRow.Decodes ⟨0xF000, 0x4000, fun w => .sneImm (fieldX w) (fieldNN w)⟩ ∧
  ∀ (x : Reg) (nn : Byte) (s : State),
    (∃ t, exec (.seImm x nn) s = .next t ∧ t.pc = (if s.getV x = nn then s.pc + 4 else s.pc + 2) ∧ OnlyPcAnd s t []) ∧
    (∃ t, exec (.sneImm x nn) s = .next t ∧ t.pc = (if s.getV x ≠ nn then s.pc + 4 else s.pc + 2) ∧ OnlyPcAnd s t [])

/-- 41_control_flow.md R127, R128: the skips on two registers, `5XY0` and `9XY0` (the literal nibble by decision D9); with
`X = Y` the one always skips and the other never. -/
def Obligations.SkipsCompareRegisters : Prop :=
  OpcodeRow.Decodes ⟨0xF00F, 0x5000, fun w => .seReg (fieldX w) (fieldY w)⟩ ∧
  OpcodeRow.Decodes ⟨0xF00F, 0x9000, fun w => .sneReg (fieldX w) (fieldY w)⟩ ∧
  ∀ (x y : Reg) (s : State),
    (∃ t, exec (.seReg x y) s = .next t ∧ t.pc = (if s.getV x = s.getV y then s.pc + 4 else s.pc + 2) ∧
      (x = y → t.pc = s.pc + 4) ∧ OnlyPcAnd s t []) ∧
    (∃ t, exec (.sneReg x y) s = .next t ∧ t.pc = (if s.getV x ≠ s.getV y then s.pc + 4 else s.pc + 2) ∧
      (x = y → t.pc = s.pc + 2) ∧ OnlyPcAnd s t [])

/-- 44_input.md R170, R171, `EX9E` and `EXA1`: all 8 bits of `V[X]` are compared (decision D21), so on every state exactly one
of the two skips. -/
def Obligations.SkipsCompareTheLatch : Prop :=
  ∀ (x : Reg) (s : State),
    (∃ t, exec (.skp x) s = .next t ∧ OnlyPcAnd s t [] ∧
      ((∃ k, s.key = some k ∧ k.val = (s.getV x).toNat) → t.pc = s.pc + 4) ∧
      ((¬ ∃ k, s.key = some k ∧ k.val = (s.getV x).toNat) → t.pc = s.pc + 2)) ∧
    (∃ t, exec (.sknp x) s = .next t ∧ OnlyPcAnd s t [] ∧
      ((∃ k, s.key = some k ∧ k.val = (s.getV x).toNat) → t.pc = s.pc + 2) ∧
      ((¬ ∃ k, s.key = some k ∧ k.val = (s.getV x).toNat) → t.pc = s.pc + 4))

/-! Registers and ALU. -/

/-- 42_alu.md R140, R142: `6XNN` and `8XY0`, `VF` included as a destination like any other. -/
def Obligations.LoadsWriteTheRegister : Prop :=
  OpcodeRow.Decodes ⟨0xF000, 0x6000, fun w => .ldImm (fieldX w) (fieldNN w)⟩ ∧
  OpcodeRow.Decodes ⟨0xF00F, 0x8000, fun w => .ldReg (fieldX w) (fieldY w)⟩ ∧
  ∀ (x y : Reg) (nn : Byte) (s : State),
    (∃ t, exec (.ldImm x nn) s = .next t ∧ t.getV x = nn ∧ t.pc = s.pc + 2 ∧ OnlyPcAnd s t [.v x]) ∧
    (∃ t, exec (.ldReg x y) s = .next t ∧ t.getV x = s.getV y ∧ t.pc = s.pc + 2 ∧ OnlyPcAnd s t [.v x])

/-- 42_alu.md R141, `7XNN`: wraps modulo 256 and writes no flag (decision D24). -/
def Obligations.AddImmediateWrapsWithoutFlag : Prop :=
  ∀ (x : Reg) (nn : Byte) (s : State), ∃ t, exec (.addImm x nn) s = .next t ∧
    (t.getV x).toNat = ((s.getV x).toNat + nn.toNat) % 256 ∧ t.pc = s.pc + 2 ∧ OnlyPcAnd s t [.v x]

/-- 42_alu.md R143 to R145, `8XY1`, `8XY2`, `8XY3`: bit by bit, no flag (decision D24). -/
def Obligations.BitwiseOpsActOnEveryBit : Prop :=
  ∀ (x y : Reg) (s : State),
    (∃ t, exec (.orReg x y) s = .next t ∧ t.pc = s.pc + 2 ∧ OnlyPcAnd s t [.v x] ∧
      ∀ b, (t.getV x).getLsbD b = ((s.getV x).getLsbD b || (s.getV y).getLsbD b)) ∧
    (∃ t, exec (.andReg x y) s = .next t ∧ t.pc = s.pc + 2 ∧ OnlyPcAnd s t [.v x] ∧
      ∀ b, (t.getV x).getLsbD b = ((s.getV x).getLsbD b && (s.getV y).getLsbD b)) ∧
    (∃ t, exec (.xorReg x y) s = .next t ∧ t.pc = s.pc + 2 ∧ OnlyPcAnd s t [.v x] ∧
      ∀ b, (t.getV x).getLsbD b = ((s.getV x).getLsbD b ^^ (s.getV y).getLsbD b))

/-- 42_alu.md R146, `8XY4`: the sum modulo 256, and the carry in `VF` unless `VF` is the destination. -/
def Obligations.AddSetsCarry : Prop :=
  OpcodeRow.Decodes ⟨0xF00F, 0x8004, fun w => .addReg (fieldX w) (fieldY w)⟩ ∧
  ∀ (x y : Reg) (s : State), ∃ t, exec (.addReg x y) s = .next t ∧
    (t.getV x).toNat = ((s.getV x).toNat + (s.getV y).toNat) % 256 ∧
    (x ≠ 0xF → t.getV 0xF = if (s.getV x).toNat + (s.getV y).toNat > 255 then 1 else 0) ∧
    t.pc = s.pc + 2 ∧ OnlyPcAnd s t [.v x, .v 0xF]

/-- 42_alu.md R147, R148, `8XY5` and `8XY7`: the difference modulo 256 (as the spec's floor remainder on integers), and no
borrow in `VF` unless `VF` is the destination. -/
def Obligations.SubtractSetsNoBorrow : Prop :=
  OpcodeRow.Decodes ⟨0xF00F, 0x8005, fun w => .subReg (fieldX w) (fieldY w)⟩ ∧
  OpcodeRow.Decodes ⟨0xF00F, 0x8007, fun w => .subnReg (fieldX w) (fieldY w)⟩ ∧
  ∀ (x y : Reg) (s : State),
    (∃ t, exec (.subReg x y) s = .next t ∧
      ((t.getV x).toNat : Int) = (((s.getV x).toNat : Int) - (s.getV y).toNat) % 256 ∧
      (x ≠ 0xF → t.getV 0xF = if (s.getV x).toNat ≥ (s.getV y).toNat then 1 else 0) ∧
      t.pc = s.pc + 2 ∧ OnlyPcAnd s t [.v x, .v 0xF]) ∧
    (∃ t, exec (.subnReg x y) s = .next t ∧
      ((t.getV x).toNat : Int) = (((s.getV y).toNat : Int) - (s.getV x).toNat) % 256 ∧
      (x ≠ 0xF → t.getV 0xF = if (s.getV y).toNat ≥ (s.getV x).toNat then 1 else 0) ∧
      t.pc = s.pc + 2 ∧ OnlyPcAnd s t [.v x, .v 0xF])

/-- 42_alu.md R149, R150, `8XY6` and `8XYE`: the source is `V[Y]`, the bit shifted out goes to `VF` unless `VF` is the
destination. -/
def Obligations.ShiftsMoveTheBitOut : Prop :=
  OpcodeRow.Decodes ⟨0xF00F, 0x8006, fun w => .shrReg (fieldX w) (fieldY w)⟩ ∧
  OpcodeRow.Decodes ⟨0xF00F, 0x800E, fun w => .shlReg (fieldX w) (fieldY w)⟩ ∧
  ∀ (x y : Reg) (s : State),
    (∃ t, exec (.shrReg x y) s = .next t ∧ (t.getV x).toNat = (s.getV y).toNat / 2 ∧
      (x ≠ 0xF → (t.getV 0xF).toNat = (s.getV y).toNat % 2) ∧ t.pc = s.pc + 2 ∧ OnlyPcAnd s t [.v x, .v 0xF]) ∧
    (∃ t, exec (.shlReg x y) s = .next t ∧ (t.getV x).toNat = (s.getV y).toNat * 2 % 256 ∧
      (x ≠ 0xF → (t.getV 0xF).toNat = (s.getV y).toNat / 128 % 2) ∧ t.pc = s.pc + 2 ∧ OnlyPcAnd s t [.v x, .v 0xF])

/-- 42_alu.md R153: both operands are read, then `VF` takes the flag, then `V[X]` the result. So with `X = 0xF` the result
stays (1), with `X ≠ 0xF` both stay, the old `VF` being the operand where `Y = 0xF` (2), and with both 0xF the values the rule
lists stay (3). -/
def Obligations.FlagIsWrittenBeforeTheDestination : Prop :=
  (∀ (y : Reg) (s : State),
    (∃ t, exec (.addReg 0xF y) s = .next t ∧ t.getV 0xF = s.getV 0xF + s.getV y) ∧
    (∃ t, exec (.subReg 0xF y) s = .next t ∧ t.getV 0xF = s.getV 0xF - s.getV y) ∧
    (∃ t, exec (.subnReg 0xF y) s = .next t ∧ t.getV 0xF = s.getV y - s.getV 0xF) ∧
    (∃ t, exec (.shrReg 0xF y) s = .next t ∧ t.getV 0xF = s.getV y >>> 1) ∧
    (∃ t, exec (.shlReg 0xF y) s = .next t ∧ t.getV 0xF = s.getV y <<< 1)) ∧
  (∀ (x y : Reg) (s : State), x ≠ 0xF →
    (∃ t, exec (.addReg x y) s = .next t ∧ t.getV x = s.getV x + s.getV y ∧
      t.getV 0xF = if (s.getV x).toNat + (s.getV y).toNat > 255 then 1 else 0) ∧
    (∃ t, exec (.subReg x y) s = .next t ∧ t.getV x = s.getV x - s.getV y ∧
      t.getV 0xF = if (s.getV x).toNat ≥ (s.getV y).toNat then 1 else 0) ∧
    (∃ t, exec (.subnReg x y) s = .next t ∧ t.getV x = s.getV y - s.getV x ∧
      t.getV 0xF = if (s.getV y).toNat ≥ (s.getV x).toNat then 1 else 0) ∧
    (∃ t, exec (.shrReg x y) s = .next t ∧ t.getV x = s.getV y >>> 1 ∧
      (t.getV 0xF).toNat = (s.getV y).toNat % 2) ∧
    (∃ t, exec (.shlReg x y) s = .next t ∧ t.getV x = s.getV y <<< 1 ∧
      (t.getV 0xF).toNat = (s.getV y).toNat / 128 % 2)) ∧
  (∀ s : State,
    (∃ t, exec (.addReg 0xF 0xF) s = .next t ∧ (t.getV 0xF).toNat = 2 * (s.getV 0xF).toNat % 256) ∧
    (∃ t, exec (.subReg 0xF 0xF) s = .next t ∧ t.getV 0xF = 0) ∧
    (∃ t, exec (.subnReg 0xF 0xF) s = .next t ∧ t.getV 0xF = 0) ∧
    (∃ t, exec (.shrReg 0xF 0xF) s = .next t ∧ (t.getV 0xF).toNat = (s.getV 0xF).toNat / 2) ∧
    (∃ t, exec (.shlReg 0xF 0xF) s = .next t ∧ (t.getV 0xF).toNat = (s.getV 0xF).toNat * 2 % 256))

/-- 42_alu.md R151, `ANNN`: `I` takes `NNN` zero-extended, so it is at most 0xFFF. -/
def Obligations.LoadIndexZeroExtends : Prop :=
  OpcodeRow.Decodes ⟨0xF000, 0xA000, fun w => .ldI (fieldNNN w)⟩ ∧
  ∀ (nnn : Addr12) (s : State), ∃ t, exec (.ldI nnn) s = .next t ∧ t.i.toNat = nnn.toNat ∧ t.i.toNat ≤ 0xFFF ∧
    t.pc = s.pc + 2 ∧ OnlyPcAnd s t [.i]

/-- 42_alu.md R152, 00_scope.md R13, `CXNN`: whatever byte is drawn, the result is that byte masked, so a submask of `NN`. The
draw is the model's free value `Config.rnd s.draws`, and the next draw is another (assumption 7); nothing here depends on it. -/
def Obligations.RandomByteIsMasked : Prop :=
  ∀ (x : Reg) (nn : Byte) (s : State), ∃ t, exec (.rnd x nn) s = .next t ∧
    t.getV x = Config.rnd s.draws &&& nn ∧ t.getV x &&& ~~~nn = 0 ∧ (nn = 0 → t.getV x = 0) ∧
    t.draws = s.draws + 1 ∧ t.pc = s.pc + 2 ∧ OnlyPcAnd s t [.v x, .draws]

/-! Display. -/

/-- 43_display.md R161, the XOR raster law, for a sprite inside memory (or of no rows): every cell is XORed with the sprite
mask; `VF` is 1 iff a cell of the mask was on, else 0; and, unless a coordinate register is `VF`, the same draw again restores
the framebuffer and sets `VF` iff a cell of the mask is on in between, which on an empty screen is iff the sprite has a set
bit. -/
def Obligations.DrawIsXorWithTheSpriteMask : Prop :=
  ∀ (x y : Reg) (n : Nibble) (s : State), n.toNat = 0 ∨ s.i.toNat + n.toNat ≤ 0x1000 →
    ∃ t, exec (.drw x y n) s = .next t ∧
      (∀ row col, t.getFb row col = true ↔ Xor (s.getFb row col = true) (spriteCovers s x y n row col)) ∧
      (t.getV 0xF = 0 ∨ t.getV 0xF = 1) ∧
      (t.getV 0xF = 1 ↔ ∃ row col, s.getFb row col = true ∧ spriteCovers s x y n row col) ∧
      (x ≠ 0xF → y ≠ 0xF →
        ∃ u, exec (.drw x y n) t = .next u ∧
          (∀ row col, u.getFb row col = s.getFb row col) ∧
          (u.getV 0xF = 0 ∨ u.getV 0xF = 1) ∧
          (u.getV 0xF = 1 ↔ ∃ row col, t.getFb row col = true ∧ spriteCovers s x y n row col) ∧
          ((∀ row col, s.getFb row col = false) →
            (u.getV 0xF = 1 ↔ ∃ r b, r < n.toNat ∧ b < 8 ∧ (s.readMem (s.i.toNat + r)).getLsbD b = true)))

/-- 43_display.md R160, R163, `DXYN` inside memory (decisions D1, D10): it completes and touches nothing but `PC`, `VF` and
the framebuffer (`I` is not changed); with `N = 0` it draws nothing, clears `VF` and cannot fault wherever `I` points. -/
def Obligations.DrawCompletesAndFrames : Prop :=
  (∀ (x y : Reg) (n : Nibble) (s : State), n.toNat = 0 ∨ s.i.toNat + n.toNat ≤ 0x1000 →
    ∃ t, exec (.drw x y n) s = .next t ∧ t.pc = s.pc + 2 ∧
      OnlyTouches s t fun e => e = .pc ∨ e = .v 0xF ∨ ∃ row col, e = .fb row col) ∧
  (∀ (x y : Reg) (s : State), ∃ t, exec (.drw x y 0) s = .next t ∧ t.getV 0xF = 0 ∧ OnlyPcAnd s t [.v 0xF])

/-! Input. -/

/-- 44_input.md R172, `FX0A` (the latch is not written, decision D11): with no key the instruction is the identity on the
whole state; with a key latched `V[X]` takes it and execution proceeds. -/
def Obligations.KeyWaitPollsTheLatch : Prop :=
  ∀ (x : Reg) (s : State),
    (s.key = none → exec (.ldVxK x) s = .next s) ∧
    (∀ k, s.key = some k →
      ∃ t, exec (.ldVxK x) s = .next t ∧ (t.getV x).toNat = k.val ∧ t.pc = s.pc + 2 ∧ OnlyPcAnd s t [.v x])

/-! Timers and memory. -/

/-- 45_timer_memory.md R181, `FX15`: every 8-bit value, 0 included, replaces the old count. -/
def Obligations.SetDelayTimerCopiesTheRegister : Prop :=
  OpcodeRow.Decodes ⟨0xF0FF, 0xF015, fun w => .ldDtVx (fieldX w)⟩ ∧
  ∀ (x : Reg) (s : State), ∃ t, exec (.ldDtVx x) s = .next t ∧ t.dt = s.getV x ∧ t.pc = s.pc + 2 ∧ OnlyPcAnd s t [.dt]

/-- 45_timer_memory.md R180, R182, 60_exceptions.md R217: `FX07` reads `DT` without changing it; `FX18` sets `ST`, and the
tone is on iff the value is not 0. -/
def Obligations.ReadDelayAndSetSound : Prop :=
  ∀ (x : Reg) (s : State),
    (∃ t, exec (.ldVxDt x) s = .next t ∧ t.getV x = s.dt ∧ t.pc = s.pc + 2 ∧ OnlyPcAnd s t [.v x]) ∧
    (∃ t, exec (.ldStVx x) s = .next t ∧ t.st = s.getV x ∧ (t.tone = true ↔ s.getV x ≠ 0) ∧ t.pc = s.pc + 2 ∧
      OnlyPcAnd s t [.st])

/-- 45_timer_memory.md R183, R184: `FX1E` adds modulo 65536 (decision D8) without a flag (D24); `FX29` multiplies all 8 bits
of `V[X]` by 5 (D22). -/
def Obligations.IndexArithmetic : Prop :=
  ∀ (x : Reg) (s : State),
    (∃ t, exec (.addI x) s = .next t ∧ t.i.toNat = (s.i.toNat + (s.getV x).toNat) % 65536 ∧ t.pc = s.pc + 2 ∧
      OnlyPcAnd s t [.i]) ∧
    (∃ t, exec (.ldF x) s = .next t ∧ t.i.toNat = (s.getV x).toNat * 5 ∧ t.pc = s.pc + 2 ∧ OnlyPcAnd s t [.i])

/-- 45_timer_memory.md R185, `FX33` inside memory (decision D1): three digits, most significant first, and no other byte. -/
def Obligations.DecimalDigitsAreStored : Prop :=
  ∀ (x : Reg) (s : State), s.mem.wf → s.i.toNat + 2 ≤ 0xFFF →
    ∃ t, exec (.ldB x) s = .next t ∧
      (t.readMem s.base).toNat = (s.getV x).toNat / 100 ∧
      (t.readMem (s.base + 1)).toNat = (s.getV x).toNat / 10 % 10 ∧
      (t.readMem (s.base + 2)).toNat = (s.getV x).toNat % 10 ∧
      t.pc = s.pc + 2 ∧ OnlyPcAnd s t [.mem s.base, .mem (s.base + 1), .mem (s.base + 2)]

/-- 45_timer_memory.md R186, `FX55` inside memory (decisions D1, D8): `V[0]` to `V[X]` at the old `I`, and no other byte. -/
def Obligations.RegistersAreStored : Prop :=
  ∀ (x : Reg) (s : State), s.mem.wf → s.i.toNat + x.val ≤ 0xFFF →
    ∃ t, exec (.ldMemVx x) s = .next t ∧
      (∀ r : Reg, r ≤ x → t.readMem (s.base + r.val) = s.getV r) ∧
      t.i.toNat = (s.i.toNat + x.val + 1) % 65536 ∧ t.pc = s.pc + 2 ∧
      OnlyTouches s t fun e => e = .pc ∨ e = .i ∨ ∃ k, k ≤ x.val ∧ e = .mem (s.base + k)

/-- 45_timer_memory.md R187, `FX65` inside memory (decisions D1, D8): `V[0]` to `V[X]` from the old `I`, and no other
register. -/
def Obligations.RegistersAreLoaded : Prop :=
  ∀ (x : Reg) (s : State), s.i.toNat + x.val ≤ 0xFFF →
    ∃ t, exec (.ldVxMem x) s = .next t ∧
      (∀ r : Reg, r ≤ x → t.getV r = s.readMem (s.base + r.val)) ∧
      t.i.toNat = (s.i.toNat + x.val + 1) % 65536 ∧ t.pc = s.pc + 2 ∧
      OnlyTouches s t fun e => e = .pc ∨ e = .i ∨ ∃ r, r ≤ x ∧ e = .v r

/-- 60_exceptions.md R204, R212 (decisions D1, D3; assumption 1): a data access that would leave memory raises `ADDRESS_FAULT`
with the lowest bad address, and nothing at all has been written, not even the part inside. -/
def Obligations.DataAddressFaultsArePrecise : Prop :=
  ∀ (x y : Reg) (n : Nibble) (s : State),
    (0 < n.toNat → 0x1000 < s.i.toNat + n.toNat →
      exec (.drw x y n) s = .next { s with fault := some (.addressFault s.pc (max s.i.toNat 0x1000)) }) ∧
    (0xFFF < s.i.toNat + 2 →
      exec (.ldB x) s = .next { s with fault := some (.addressFault s.pc (max s.i.toNat 0x1000)) }) ∧
    (0xFFF < s.i.toNat + x.val →
      exec (.ldMemVx x) s = .next { s with fault := some (.addressFault s.pc (max s.i.toNat 0x1000)) } ∧
      exec (.ldVxMem x) s = .next { s with fault := some (.addressFault s.pc (max s.i.toNat 0x1000)) })

/-- 40_dispatch.md R106, `UNDEF`: a word that matches no pattern only advances `PC`. -/
def Obligations.UndefinedWordIsANoOp : Prop :=
  (∀ w : Word, (∀ row ∈ opcodeMap, w &&& row.mask ≠ row.pattern) → decode w = .undef w) ∧
  ∀ (w : Word) (s : State), ∃ t, exec (.undef w) s = .next t ∧ t.pc = s.pc + 2 ∧ OnlyPcAnd s t []

/-! Laws over several steps. -/

/-- 41_control_flow.md R129 (decision D4): a call and the return at its target come back to the instruction after the call
with the stack pointer as before; besides `PC` only the stack cell has changed. -/
def Obligations.CallReturnRoundTrip : Prop :=
  ∀ (s : State) (nnn : Addr12), s.fault = none → s.sp.val ≤ 14 → s.pc.toNat ≤ 0xFFE → nnn.toNat ≤ 0xFFE →
    s.wordAt s.pc.toNat = encode (.call nnn) → s.wordAt nnn.toNat = encode .ret →
    ∃ t u, step s = .next t ∧ step t = .next u ∧ u.pc.toNat = s.pc.toNat + 2 ∧ u.sp = s.sp ∧
      u.getStk (s.sp + 1) = s.pc + 2 ∧ OnlyPcAnd s u [.stk (s.sp + 1)]

/-- 45_timer_memory.md R187: `FX55`, then `ANNN` back to the same address, then `FX65` restores the registers stored, whatever
else has happened to the registers before the load. -/
def Obligations.StoreThenLoadRestoresRegisters : Prop :=
  ∀ (x : Reg) (nnn : Addr12) (s : State), s.mem.wf → s.i.toNat = nnn.toNat → nnn.toNat + x.val ≤ 0xFFF →
    ∃ t u, exec (.ldMemVx x) s = .next t ∧ exec (.ldI nnn) t = .next u ∧
      ∀ u' : State, u'.mem = u.mem → u'.i = u.i →
        ∃ w, exec (.ldVxMem x) u' = .next w ∧ ∀ r : Reg, r ≤ x → w.getV r = s.getV r

/-- 20_memory.md R65: a store is seen by the next fetch, with nothing needed in between. -/
def Obligations.StoredWordIsFetched : Prop :=
  ∀ (s : State) (w : Word), s.mem.wf → s.pc.toNat ≤ 0xFFE →
    fetch (s.storeBytes s.pc.toNat (bytesOfWord w)) = .ok w

/-- 70_reset_and_hazards.md R251 (decision D26): a finished state is left unchanged by every step, and stays finished under
the operations of the tick driver and the input collaborator. -/
def Obligations.FinishedStateStays : Prop :=
  ∀ s : State, Finished s → step s = .next s ∧ Finished s.decDelay ∧ Finished s.decSound ∧ ∀ k, Finished (s.setKey k)

/-! Invariants. -/

/-- Every step keeps memory in its canonical form (the model's own form, assumption 3; the cells are those of 20_memory.md
R51). -/
def Obligations.StepKeepsMemoryCanonical : Prop :=
  ∀ s t : State, s.mem.wf → step s = .next t → t.mem.wf

/-- 10_state.md R25: `PC` is never above 0x10FE; with it goes the bound 0x1000 on saved values (41_control_flow.md R121). -/
def Obligations.StepKeepsPcBounded : Prop :=
  ∀ s t : State, PcBounded s → step s = .next t → PcBounded t

/-- Both invariants hold along every schedule of operations of all agents (00_scope.md R14). -/
def Obligations.EveryScheduleKeepsTheInvariants : Prop :=
  ∀ (ops : List Operation) (s t : State), Inv s → performAll ops s = .next t → Inv t

/-- The invariants hold at power-on, whatever the latch holds (10_state.md R37). -/
def Obligations.PowerOnMeetsTheInvariants : Prop := ∀ k : Option Key, Inv (State.powerOn k)

/-- 10_state.md R27: no operation but `reset` writes cell `STK[0]`, so that once 0 (what `reset` leaves, decision D6) it stays 0
along every schedule. -/
def Obligations.StackCellZeroIsNeverWritten : Prop :=
  ∀ (ops : List Operation) (s t : State), performAll ops s = .next t →
    (.reset ∉ ops → t.getStk 0 = s.getStk 0) ∧ (s.getStk 0 = 0 → t.getStk 0 = 0)

/-- 60_exceptions.md R218, 10_state.md R30: `DT` goes up only in a step that executes `FX15`. -/
def Obligations.DelayTimerRisesOnlyByFX15 : Prop :=
  ∀ (op : Operation) (s t : State), perform op s = .next t → s.dt.toNat < t.dt.toNat →
    op = .step ∧ ∃ w x, fetch s = .ok w ∧ decode w = .ldDtVx x

/-- 10_state.md R33, 60_exceptions.md R213 (decision D2): a fault stays until `reset`, which clears it. -/
def Obligations.FaultStaysUntilReset : Prop :=
  ∀ (op : Operation) (s t : State) (f : Fault), s.fault = some f → perform op s = .next t →
    (op ≠ .reset → t.fault = some f) ∧ (op = .reset → t.fault = none)

/-! The other agents' operations. -/

/-- 70_reset_and_hazards.md R240 with the values of 10_state.md R37 (those of `V`, `I`, `SP`, `STK`, `FB`, `DT`, `ST` and
`FAULT` are the spec's decisions D2, D5, D6; the font bytes are the default `FONT`, assumption 2, which this statement only
names). -/
def Obligations.ResetLeavesTheResetState : Prop :=
  ∀ s : State, ∃ t, perform .reset s = .next t ∧ t.pc = 0x200 ∧
    (∀ a, a < 80 → t.readMem a = font.getD a 0) ∧ (∀ a, 80 ≤ a → a < 4096 → t.readMem a = 0) ∧
    (∀ r, t.getV r = 0) ∧ t.i = 0 ∧ t.sp = 0 ∧ (∀ k, t.getStk k = 0) ∧ (∀ y x, t.getFb y x = false) ∧
    t.dt = 0 ∧ t.st = 0 ∧ t.fault = none

/-- 70_reset_and_hazards.md R242: `reset` does not touch the latch. -/
def Obligations.ResetKeepsTheLatch : Prop :=
  ∀ s : State, ∃ t, perform .reset s = .next t ∧ t.key = s.key

/-- 70_reset_and_hazards.md R243, R244: `load` places the bytes from 0x200 on and touches nothing else, in particular neither
`PC` nor what lies beyond the bytes; too many bytes raise `ROM_TOO_LARGE` with nothing written; a halted machine does nothing. -/
def Obligations.LoadPlacesTheBytes : Prop :=
  ∀ (bytes : List Byte) (s : State), s.mem.wf →
    (s.fault ≠ none → perform (.load bytes) s = .next s) ∧
    (s.fault = none → 3584 < bytes.length →
      perform (.load bytes) s = .next { s with fault := some (.romTooLarge bytes.length) }) ∧
    (s.fault = none → bytes.length ≤ 3584 →
      ∃ t, perform (.load bytes) s = .next t ∧
        (∀ k, k < bytes.length → t.readMem (0x200 + k) = bytes.getD k 0) ∧
        OnlyTouches s t fun e => ∃ k, k < bytes.length ∧ e = .mem (0x200 + k))

/-- 60_exceptions.md R216, R219, R225 (decisions D14, D18): the timers count down to a floor of 0, each by its own operation, in
either order alike; `set_key` writes the latch; each touches nothing else. -/
def Obligations.OtherAgentsTouchOnlyTheirOwn : Prop :=
  ∀ (s : State) (k : Option Key),
    (∃ t, perform .decDelay s = .next t ∧ t.dt.toNat = s.dt.toNat - 1 ∧ OnlyTouches s t fun e => e = .dt) ∧
    (∃ t, perform .decSound s = .next t ∧ t.st.toNat = s.st.toNat - 1 ∧ OnlyTouches s t fun e => e = .st) ∧
    (∃ t, perform (.setKey k) s = .next t ∧ t.key = k ∧ OnlyTouches s t fun e => e = .key) ∧
    performAll [.decDelay, .decSound] s = performAll [.decSound, .decDelay] s

/-- 60_exceptions.md R220, 10_state.md R29: the exported framebuffer is row-major: cell `(x, y)` is element `y * 64 + x`. -/
def Obligations.ExportedFramebufferIsRowMajor : Prop :=
  ∀ s : State, s.exportFb.length = 2048 ∧
    ∀ (y : Fin 32) (x : Fin 64), s.exportFb[y.val * 64 + x.val]? = some (s.getFb y x)
end

