-- ==== Sys2Proof/Laws/Decode.lean ====
section
/-! SUPPORT. The fields of a word and the words of the encoder as numbers, so that facts about encodings are linear
arithmetic; the masks of the opcode map in terms of the fields. -/

namespace Sys2Proof

/-! Fields as digits of the word (30_encoding.md R81). -/

theorem fieldFamily_toNat (w : Word) : (fieldFamily w).toNat = w.toNat / 4096 := by
  have := w.isLt
  simp [fieldFamily, Nat.shiftRight_eq_div_pow]
  omega

theorem fieldX_val (w : Word) : (fieldX w).val = w.toNat / 256 % 16 := by
  simp [fieldX, regOfNibble, Nat.shiftRight_eq_div_pow]

theorem fieldY_val (w : Word) : (fieldY w).val = w.toNat / 16 % 16 := by
  simp [fieldY, regOfNibble, Nat.shiftRight_eq_div_pow]

theorem fieldN_toNat (w : Word) : (fieldN w).toNat = w.toNat % 16 := by simp [fieldN]

theorem fieldNN_toNat (w : Word) : (fieldNN w).toNat = w.toNat % 256 := by simp [fieldNN]

theorem fieldNNN_toNat (w : Word) : (fieldNNN w).toNat = w.toNat % 4096 := by simp [fieldNNN]

/-! Encoded words as numbers (30_encoding.md R82). -/

theorem append_toNat {n m : Nat} (a : BitVec n) (b : BitVec m) : (a ++ b).toNat = a.toNat * 2 ^ m + b.toNat := by
  rw [BitVec.toNat_append, ← Nat.shiftLeft_add_eq_or_of_lt b.isLt, Nat.shiftLeft_eq]

theorem nibbleOfReg_toNat (r : Reg) : (nibbleOfReg r).toNat = r.val := by
  simp [nibbleOfReg]

theorem encodeNNN_toNat (f : Nibble) (nnn : Addr12) : (encodeNNN f nnn).toNat = f.toNat * 4096 + nnn.toNat :=
  append_toNat f nnn

theorem encodeXNN_toNat (f : Nibble) (x : Reg) (nn : Byte) :
    (encodeXNN f x nn).toNat = f.toNat * 4096 + x.val * 256 + nn.toNat := by
  have h : (encodeXNN f x nn).toNat = (f ++ nibbleOfReg x).toNat * 2 ^ 8 + nn.toNat := append_toNat ..
  rw [h, append_toNat, nibbleOfReg_toNat]
  omega

theorem encodeXYN_toNat (f : Nibble) (x y : Reg) (n : Nibble) :
    (encodeXYN f x y n).toNat = f.toNat * 4096 + x.val * 256 + y.val * 16 + n.toNat := by
  have h : (encodeXYN f x y n).toNat = (f ++ nibbleOfReg x ++ nibbleOfReg y).toNat * 2 ^ 4 + n.toNat := append_toNat ..
  rw [h, append_toNat, append_toNat, nibbleOfReg_toNat, nibbleOfReg_toNat]
  omega

/-! The fields of an encoded word. -/

@[simp] theorem fieldFamily_encodeNNN (f : Nibble) (nnn : Addr12) : fieldFamily (encodeNNN f nnn) = f := by
  have := nnn.isLt
  apply BitVec.eq_of_toNat_eq
  rw [fieldFamily_toNat, encodeNNN_toNat]
  omega

@[simp] theorem fieldNNN_encodeNNN (f : Nibble) (nnn : Addr12) : fieldNNN (encodeNNN f nnn) = nnn := by
  have := nnn.isLt
  apply BitVec.eq_of_toNat_eq
  rw [fieldNNN_toNat, encodeNNN_toNat]
  omega

@[simp] theorem fieldFamily_encodeXNN (f : Nibble) (x : Reg) (nn : Byte) : fieldFamily (encodeXNN f x nn) = f := by
  have := nn.isLt
  have := x.isLt
  apply BitVec.eq_of_toNat_eq
  rw [fieldFamily_toNat, encodeXNN_toNat]
  omega

@[simp] theorem fieldX_encodeXNN (f : Nibble) (x : Reg) (nn : Byte) : fieldX (encodeXNN f x nn) = x := by
  have := nn.isLt
  have := x.isLt
  apply Fin.ext
  rw [fieldX_val, encodeXNN_toNat]
  omega

@[simp] theorem fieldNN_encodeXNN (f : Nibble) (x : Reg) (nn : Byte) : fieldNN (encodeXNN f x nn) = nn := by
  have := nn.isLt
  apply BitVec.eq_of_toNat_eq
  rw [fieldNN_toNat, encodeXNN_toNat]
  omega

@[simp] theorem fieldFamily_encodeXYN (f : Nibble) (x y : Reg) (n : Nibble) : fieldFamily (encodeXYN f x y n) = f := by
  have := n.isLt
  have := x.isLt
  have := y.isLt
  apply BitVec.eq_of_toNat_eq
  rw [fieldFamily_toNat, encodeXYN_toNat]
  omega

@[simp] theorem fieldX_encodeXYN (f : Nibble) (x y : Reg) (n : Nibble) : fieldX (encodeXYN f x y n) = x := by
  have := n.isLt
  have := x.isLt
  have := y.isLt
  apply Fin.ext
  rw [fieldX_val, encodeXYN_toNat]
  omega

@[simp] theorem fieldY_encodeXYN (f : Nibble) (x y : Reg) (n : Nibble) : fieldY (encodeXYN f x y n) = y := by
  have := n.isLt
  have := y.isLt
  apply Fin.ext
  rw [fieldY_val, encodeXYN_toNat]
  omega

@[simp] theorem fieldN_encodeXYN (f : Nibble) (x y : Reg) (n : Nibble) : fieldN (encodeXYN f x y n) = n := by
  have := n.isLt
  apply BitVec.eq_of_toNat_eq
  rw [fieldN_toNat, encodeXYN_toNat]
  omega

/-! The masks of the opcode map, as numbers (30_encoding.md R85). -/

theorem and_F000_toNat (w : Word) : (w &&& (0xF000 : Word)).toNat = w.toNat / 4096 * 4096 := by
  have h : w &&& (0xF000 : Word) = (w >>> 12) <<< 12 := by
    apply BitVec.eq_of_getLsbD_eq
    intro i hi
    interval_cases i <;> simp
  have := w.isLt
  rw [h]
  simp [Nat.shiftRight_eq_div_pow, Nat.shiftLeft_eq]
  omega

theorem and_000F_toNat (w : Word) : (w &&& (0x000F : Word)).toNat = w.toNat % 16 := by
  rw [BitVec.toNat_and]
  exact Nat.and_two_pow_sub_one_eq_mod _ 4

theorem and_00FF_toNat (w : Word) : (w &&& (0x00FF : Word)).toNat = w.toNat % 256 := by
  rw [BitVec.toNat_and]
  exact Nat.and_two_pow_sub_one_eq_mod _ 8

theorem and_F00F_toNat (w : Word) : (w &&& (0xF00F : Word)).toNat = w.toNat / 4096 * 4096 + w.toNat % 16 := by
  have h : w &&& (0xF00F : Word) = (w &&& (0xF000 : Word)) + (w &&& (0x000F : Word)) := by
    rw [BitVec.add_eq_or_of_and_eq_zero]
    · apply BitVec.eq_of_getLsbD_eq
      intro i hi
      interval_cases i <;> simp
    · apply BitVec.eq_of_getLsbD_eq
      intro i hi
      interval_cases i <;> simp
  have := w.isLt
  rw [h, BitVec.toNat_add, and_F000_toNat, and_000F_toNat]
  omega

theorem and_F0FF_toNat (w : Word) : (w &&& (0xF0FF : Word)).toNat = w.toNat / 4096 * 4096 + w.toNat % 256 := by
  have h : w &&& (0xF0FF : Word) = (w &&& (0xF000 : Word)) + (w &&& (0x00FF : Word)) := by
    rw [BitVec.add_eq_or_of_and_eq_zero]
    · apply BitVec.eq_of_getLsbD_eq
      intro i hi
      interval_cases i <;> simp
    · apply BitVec.eq_of_getLsbD_eq
      intro i hi
      interval_cases i <;> simp
  have := w.isLt
  rw [h, BitVec.toNat_add, and_F000_toNat, and_00FF_toNat]
  omega

/-! A mask leaves the literal fields of an encoded word and clears the others. -/

theorem encodeNNN_and_F000 (f : Nibble) (nnn : Addr12) : encodeNNN f nnn &&& (0xF000 : Word) = encodeNNN f 0 := by
  have := nnn.isLt
  apply BitVec.eq_of_toNat_eq
  rw [and_F000_toNat, encodeNNN_toNat, encodeNNN_toNat]
  simp
  omega

theorem encodeXNN_and_F000 (f : Nibble) (x : Reg) (nn : Byte) :
    encodeXNN f x nn &&& (0xF000 : Word) = encodeXNN f 0 0 := by
  have := nn.isLt
  have := x.isLt
  apply BitVec.eq_of_toNat_eq
  rw [and_F000_toNat, encodeXNN_toNat, encodeXNN_toNat]
  simp
  omega

theorem encodeXNN_and_F0FF (f : Nibble) (x : Reg) (nn : Byte) :
    encodeXNN f x nn &&& (0xF0FF : Word) = encodeXNN f 0 nn := by
  have := nn.isLt
  have := x.isLt
  apply BitVec.eq_of_toNat_eq
  rw [and_F0FF_toNat, encodeXNN_toNat, encodeXNN_toNat]
  simp
  omega

theorem encodeXYN_and_F000 (f : Nibble) (x y : Reg) (n : Nibble) :
    encodeXYN f x y n &&& (0xF000 : Word) = encodeXYN f 0 0 0 := by
  have := n.isLt
  have := x.isLt
  have := y.isLt
  apply BitVec.eq_of_toNat_eq
  rw [and_F000_toNat, encodeXYN_toNat, encodeXYN_toNat]
  simp
  omega

theorem encodeXYN_and_F00F (f : Nibble) (x y : Reg) (n : Nibble) :
    encodeXYN f x y n &&& (0xF00F : Word) = encodeXYN f 0 0 n := by
  have := n.isLt
  have := x.isLt
  have := y.isLt
  apply BitVec.eq_of_toNat_eq
  rw [and_F00F_toNat, encodeXYN_toNat, encodeXYN_toNat]
  simp
  omega

/-! Bytes of a word (20_memory.md R55). -/

theorem wordOfBytes_toNat (hi lo : Byte) : (wordOfBytes hi lo).toNat = hi.toNat * 256 + lo.toNat := append_toNat hi lo

/-- A word taken apart into its two bytes and put together again is that word. -/
theorem wordOfBytes_bytesOfWord (w : Word) : wordOfBytes (w.extractLsb' 8 8) (w.extractLsb' 0 8) = w := by
  have := w.isLt
  apply BitVec.eq_of_toNat_eq
  rw [wordOfBytes_toNat]
  simp [Nat.shiftRight_eq_div_pow]
  omega

/-- Two bytes decode as the word they make. -/
theorem decodeBytes_bytesOfWord (w : Word) : decodeBytes (bytesOfWord w) = .ok (decode w, []) := by
  rw [bytesOfWord, decodeBytes, wordOfBytes_bytesOfWord]

end Sys2Proof
end

