-- ==== Sys2Proof/Laws/State.lean ====
section
/-! SUPPORT. What every update of the state does to every field and to every accessor: one lemma each, so that no later proof
unfolds a record update. -/

namespace Sys2Proof.Machine

/-! `State.setV`. -/

@[simp] theorem State.setV_v (s : State) (x : Reg) (b : Byte) : (s.setV x b).v = s.v.set x b := rfl
@[simp] theorem State.setV_i (s : State) (x : Reg) (b : Byte) : (s.setV x b).i = s.i := rfl
@[simp] theorem State.setV_pc (s : State) (x : Reg) (b : Byte) : (s.setV x b).pc = s.pc := rfl
@[simp] theorem State.setV_sp (s : State) (x : Reg) (b : Byte) : (s.setV x b).sp = s.sp := rfl
@[simp] theorem State.setV_stk (s : State) (x : Reg) (b : Byte) : (s.setV x b).stk = s.stk := rfl
@[simp] theorem State.setV_mem (s : State) (x : Reg) (b : Byte) : (s.setV x b).mem = s.mem := rfl
@[simp] theorem State.setV_fb (s : State) (x : Reg) (b : Byte) : (s.setV x b).fb = s.fb := rfl
@[simp] theorem State.setV_dt (s : State) (x : Reg) (b : Byte) : (s.setV x b).dt = s.dt := rfl
@[simp] theorem State.setV_st (s : State) (x : Reg) (b : Byte) : (s.setV x b).st = s.st := rfl
@[simp] theorem State.setV_key (s : State) (x : Reg) (b : Byte) : (s.setV x b).key = s.key := rfl
@[simp] theorem State.setV_fault (s : State) (x : Reg) (b : Byte) : (s.setV x b).fault = s.fault := rfl
@[simp] theorem State.setV_draws (s : State) (x : Reg) (b : Byte) : (s.setV x b).draws = s.draws := rfl
@[simp] theorem State.getStk_setV (s : State) (x : Reg) (b : Byte) (k' : Fin 16) : (s.setV x b).getStk k' = s.getStk k' := rfl
@[simp] theorem State.readMem_setV (s : State) (x : Reg) (b : Byte) (a' : Nat) : (s.setV x b).readMem a' = s.readMem a' := rfl
@[simp] theorem State.getFb_setV (s : State) (x : Reg) (b : Byte) (y : Fin 32) (x' : Fin 64) : (s.setV x b).getFb y x' = s.getFb y x' := rfl
@[simp] theorem State.base_setV (s : State) (x : Reg) (b : Byte) : (s.setV x b).base = s.base := rfl

/-! `State.setLowRegs`. -/

@[simp] theorem State.setLowRegs_i (s : State) (x : Reg) (f : Nat → Byte) : (s.setLowRegs x f).i = s.i := rfl
@[simp] theorem State.setLowRegs_pc (s : State) (x : Reg) (f : Nat → Byte) : (s.setLowRegs x f).pc = s.pc := rfl
@[simp] theorem State.setLowRegs_sp (s : State) (x : Reg) (f : Nat → Byte) : (s.setLowRegs x f).sp = s.sp := rfl
@[simp] theorem State.setLowRegs_stk (s : State) (x : Reg) (f : Nat → Byte) : (s.setLowRegs x f).stk = s.stk := rfl
@[simp] theorem State.setLowRegs_mem (s : State) (x : Reg) (f : Nat → Byte) : (s.setLowRegs x f).mem = s.mem := rfl
@[simp] theorem State.setLowRegs_fb (s : State) (x : Reg) (f : Nat → Byte) : (s.setLowRegs x f).fb = s.fb := rfl
@[simp] theorem State.setLowRegs_dt (s : State) (x : Reg) (f : Nat → Byte) : (s.setLowRegs x f).dt = s.dt := rfl
@[simp] theorem State.setLowRegs_st (s : State) (x : Reg) (f : Nat → Byte) : (s.setLowRegs x f).st = s.st := rfl
@[simp] theorem State.setLowRegs_key (s : State) (x : Reg) (f : Nat → Byte) : (s.setLowRegs x f).key = s.key := rfl
@[simp] theorem State.setLowRegs_fault (s : State) (x : Reg) (f : Nat → Byte) : (s.setLowRegs x f).fault = s.fault := rfl
@[simp] theorem State.setLowRegs_draws (s : State) (x : Reg) (f : Nat → Byte) : (s.setLowRegs x f).draws = s.draws := rfl
@[simp] theorem State.getStk_setLowRegs (s : State) (x : Reg) (f : Nat → Byte) (k' : Fin 16) : (s.setLowRegs x f).getStk k' = s.getStk k' := rfl
@[simp] theorem State.readMem_setLowRegs (s : State) (x : Reg) (f : Nat → Byte) (a' : Nat) : (s.setLowRegs x f).readMem a' = s.readMem a' := rfl
@[simp] theorem State.getFb_setLowRegs (s : State) (x : Reg) (f : Nat → Byte) (y : Fin 32) (x' : Fin 64) : (s.setLowRegs x f).getFb y x' = s.getFb y x' := rfl
@[simp] theorem State.base_setLowRegs (s : State) (x : Reg) (f : Nat → Byte) : (s.setLowRegs x f).base = s.base := rfl

/-! `State.setFlag`. -/

@[simp] theorem State.setFlag_i (s : State) (c : Bool) : (s.setFlag c).i = s.i := rfl
@[simp] theorem State.setFlag_pc (s : State) (c : Bool) : (s.setFlag c).pc = s.pc := rfl
@[simp] theorem State.setFlag_sp (s : State) (c : Bool) : (s.setFlag c).sp = s.sp := rfl
@[simp] theorem State.setFlag_stk (s : State) (c : Bool) : (s.setFlag c).stk = s.stk := rfl
@[simp] theorem State.setFlag_mem (s : State) (c : Bool) : (s.setFlag c).mem = s.mem := rfl
@[simp] theorem State.setFlag_fb (s : State) (c : Bool) : (s.setFlag c).fb = s.fb := rfl
@[simp] theorem State.setFlag_dt (s : State) (c : Bool) : (s.setFlag c).dt = s.dt := rfl
@[simp] theorem State.setFlag_st (s : State) (c : Bool) : (s.setFlag c).st = s.st := rfl
@[simp] theorem State.setFlag_key (s : State) (c : Bool) : (s.setFlag c).key = s.key := rfl
@[simp] theorem State.setFlag_fault (s : State) (c : Bool) : (s.setFlag c).fault = s.fault := rfl
@[simp] theorem State.setFlag_draws (s : State) (c : Bool) : (s.setFlag c).draws = s.draws := rfl
@[simp] theorem State.getStk_setFlag (s : State) (c : Bool) (k' : Fin 16) : (s.setFlag c).getStk k' = s.getStk k' := rfl
@[simp] theorem State.readMem_setFlag (s : State) (c : Bool) (a' : Nat) : (s.setFlag c).readMem a' = s.readMem a' := rfl
@[simp] theorem State.getFb_setFlag (s : State) (c : Bool) (y : Fin 32) (x' : Fin 64) : (s.setFlag c).getFb y x' = s.getFb y x' := rfl
@[simp] theorem State.base_setFlag (s : State) (c : Bool) : (s.setFlag c).base = s.base := rfl

/-! `State.setFlagThenV`. -/

@[simp] theorem State.setFlagThenV_i (s : State) (x : Reg) (c : Bool) (b : Byte) : (s.setFlagThenV x c b).i = s.i := rfl
@[simp] theorem State.setFlagThenV_pc (s : State) (x : Reg) (c : Bool) (b : Byte) : (s.setFlagThenV x c b).pc = s.pc := rfl
@[simp] theorem State.setFlagThenV_sp (s : State) (x : Reg) (c : Bool) (b : Byte) : (s.setFlagThenV x c b).sp = s.sp := rfl
@[simp] theorem State.setFlagThenV_stk (s : State) (x : Reg) (c : Bool) (b : Byte) : (s.setFlagThenV x c b).stk = s.stk := rfl
@[simp] theorem State.setFlagThenV_mem (s : State) (x : Reg) (c : Bool) (b : Byte) : (s.setFlagThenV x c b).mem = s.mem := rfl
@[simp] theorem State.setFlagThenV_fb (s : State) (x : Reg) (c : Bool) (b : Byte) : (s.setFlagThenV x c b).fb = s.fb := rfl
@[simp] theorem State.setFlagThenV_dt (s : State) (x : Reg) (c : Bool) (b : Byte) : (s.setFlagThenV x c b).dt = s.dt := rfl
@[simp] theorem State.setFlagThenV_st (s : State) (x : Reg) (c : Bool) (b : Byte) : (s.setFlagThenV x c b).st = s.st := rfl
@[simp] theorem State.setFlagThenV_key (s : State) (x : Reg) (c : Bool) (b : Byte) : (s.setFlagThenV x c b).key = s.key := rfl
@[simp] theorem State.setFlagThenV_fault (s : State) (x : Reg) (c : Bool) (b : Byte) : (s.setFlagThenV x c b).fault = s.fault := rfl
@[simp] theorem State.setFlagThenV_draws (s : State) (x : Reg) (c : Bool) (b : Byte) : (s.setFlagThenV x c b).draws = s.draws := rfl
@[simp] theorem State.getStk_setFlagThenV (s : State) (x : Reg) (c : Bool) (b : Byte) (k' : Fin 16) : (s.setFlagThenV x c b).getStk k' = s.getStk k' := rfl
@[simp] theorem State.readMem_setFlagThenV (s : State) (x : Reg) (c : Bool) (b : Byte) (a' : Nat) : (s.setFlagThenV x c b).readMem a' = s.readMem a' := rfl
@[simp] theorem State.getFb_setFlagThenV (s : State) (x : Reg) (c : Bool) (b : Byte) (y : Fin 32) (x' : Fin 64) : (s.setFlagThenV x c b).getFb y x' = s.getFb y x' := rfl
@[simp] theorem State.base_setFlagThenV (s : State) (x : Reg) (c : Bool) (b : Byte) : (s.setFlagThenV x c b).base = s.base := rfl

/-! `State.setI`. -/

@[simp] theorem State.setI_v (s : State) (w : Word) : (s.setI w).v = s.v := rfl
@[simp] theorem State.setI_i (s : State) (w : Word) : (s.setI w).i = w := rfl
@[simp] theorem State.setI_pc (s : State) (w : Word) : (s.setI w).pc = s.pc := rfl
@[simp] theorem State.setI_sp (s : State) (w : Word) : (s.setI w).sp = s.sp := rfl
@[simp] theorem State.setI_stk (s : State) (w : Word) : (s.setI w).stk = s.stk := rfl
@[simp] theorem State.setI_mem (s : State) (w : Word) : (s.setI w).mem = s.mem := rfl
@[simp] theorem State.setI_fb (s : State) (w : Word) : (s.setI w).fb = s.fb := rfl
@[simp] theorem State.setI_dt (s : State) (w : Word) : (s.setI w).dt = s.dt := rfl
@[simp] theorem State.setI_st (s : State) (w : Word) : (s.setI w).st = s.st := rfl
@[simp] theorem State.setI_key (s : State) (w : Word) : (s.setI w).key = s.key := rfl
@[simp] theorem State.setI_fault (s : State) (w : Word) : (s.setI w).fault = s.fault := rfl
@[simp] theorem State.setI_draws (s : State) (w : Word) : (s.setI w).draws = s.draws := rfl
@[simp] theorem State.getV_setI (s : State) (w : Word) (r : Reg) : (s.setI w).getV r = s.getV r := rfl
@[simp] theorem State.getStk_setI (s : State) (w : Word) (k' : Fin 16) : (s.setI w).getStk k' = s.getStk k' := rfl
@[simp] theorem State.readMem_setI (s : State) (w : Word) (a' : Nat) : (s.setI w).readMem a' = s.readMem a' := rfl
@[simp] theorem State.getFb_setI (s : State) (w : Word) (y : Fin 32) (x' : Fin 64) : (s.setI w).getFb y x' = s.getFb y x' := rfl

/-! `State.advanceI`. -/

@[simp] theorem State.advanceI_v (s : State) (x : Reg) : (s.advanceI x).v = s.v := rfl
@[simp] theorem State.advanceI_i (s : State) (x : Reg) : (s.advanceI x).i = s.i + BitVec.ofNat 16 (spanOfReg x) := rfl
@[simp] theorem State.advanceI_pc (s : State) (x : Reg) : (s.advanceI x).pc = s.pc := rfl
@[simp] theorem State.advanceI_sp (s : State) (x : Reg) : (s.advanceI x).sp = s.sp := rfl
@[simp] theorem State.advanceI_stk (s : State) (x : Reg) : (s.advanceI x).stk = s.stk := rfl
@[simp] theorem State.advanceI_mem (s : State) (x : Reg) : (s.advanceI x).mem = s.mem := rfl
@[simp] theorem State.advanceI_fb (s : State) (x : Reg) : (s.advanceI x).fb = s.fb := rfl
@[simp] theorem State.advanceI_dt (s : State) (x : Reg) : (s.advanceI x).dt = s.dt := rfl
@[simp] theorem State.advanceI_st (s : State) (x : Reg) : (s.advanceI x).st = s.st := rfl
@[simp] theorem State.advanceI_key (s : State) (x : Reg) : (s.advanceI x).key = s.key := rfl
@[simp] theorem State.advanceI_fault (s : State) (x : Reg) : (s.advanceI x).fault = s.fault := rfl
@[simp] theorem State.advanceI_draws (s : State) (x : Reg) : (s.advanceI x).draws = s.draws := rfl
@[simp] theorem State.getV_advanceI (s : State) (x : Reg) (r : Reg) : (s.advanceI x).getV r = s.getV r := rfl
@[simp] theorem State.getStk_advanceI (s : State) (x : Reg) (k' : Fin 16) : (s.advanceI x).getStk k' = s.getStk k' := rfl
@[simp] theorem State.readMem_advanceI (s : State) (x : Reg) (a' : Nat) : (s.advanceI x).readMem a' = s.readMem a' := rfl
@[simp] theorem State.getFb_advanceI (s : State) (x : Reg) (y : Fin 32) (x' : Fin 64) : (s.advanceI x).getFb y x' = s.getFb y x' := rfl

/-! `State.setPc`. -/

@[simp] theorem State.setPc_v (s : State) (w : Word) : (s.setPc w).v = s.v := rfl
@[simp] theorem State.setPc_i (s : State) (w : Word) : (s.setPc w).i = s.i := rfl
@[simp] theorem State.setPc_pc (s : State) (w : Word) : (s.setPc w).pc = w := rfl
@[simp] theorem State.setPc_sp (s : State) (w : Word) : (s.setPc w).sp = s.sp := rfl
@[simp] theorem State.setPc_stk (s : State) (w : Word) : (s.setPc w).stk = s.stk := rfl
@[simp] theorem State.setPc_mem (s : State) (w : Word) : (s.setPc w).mem = s.mem := rfl
@[simp] theorem State.setPc_fb (s : State) (w : Word) : (s.setPc w).fb = s.fb := rfl
@[simp] theorem State.setPc_dt (s : State) (w : Word) : (s.setPc w).dt = s.dt := rfl
@[simp] theorem State.setPc_st (s : State) (w : Word) : (s.setPc w).st = s.st := rfl
@[simp] theorem State.setPc_key (s : State) (w : Word) : (s.setPc w).key = s.key := rfl
@[simp] theorem State.setPc_fault (s : State) (w : Word) : (s.setPc w).fault = s.fault := rfl
@[simp] theorem State.setPc_draws (s : State) (w : Word) : (s.setPc w).draws = s.draws := rfl
@[simp] theorem State.getV_setPc (s : State) (w : Word) (r : Reg) : (s.setPc w).getV r = s.getV r := rfl
@[simp] theorem State.getStk_setPc (s : State) (w : Word) (k' : Fin 16) : (s.setPc w).getStk k' = s.getStk k' := rfl
@[simp] theorem State.readMem_setPc (s : State) (w : Word) (a' : Nat) : (s.setPc w).readMem a' = s.readMem a' := rfl
@[simp] theorem State.getFb_setPc (s : State) (w : Word) (y : Fin 32) (x' : Fin 64) : (s.setPc w).getFb y x' = s.getFb y x' := rfl
@[simp] theorem State.base_setPc (s : State) (w : Word) : (s.setPc w).base = s.base := rfl

/-! `State.advance`. -/

@[simp] theorem State.advance_v (s : State) : s.advance.v = s.v := rfl
@[simp] theorem State.advance_i (s : State) : s.advance.i = s.i := rfl
@[simp] theorem State.advance_pc (s : State) : s.advance.pc = s.pc + 2 := rfl
@[simp] theorem State.advance_sp (s : State) : s.advance.sp = s.sp := rfl
@[simp] theorem State.advance_stk (s : State) : s.advance.stk = s.stk := rfl
@[simp] theorem State.advance_mem (s : State) : s.advance.mem = s.mem := rfl
@[simp] theorem State.advance_fb (s : State) : s.advance.fb = s.fb := rfl
@[simp] theorem State.advance_dt (s : State) : s.advance.dt = s.dt := rfl
@[simp] theorem State.advance_st (s : State) : s.advance.st = s.st := rfl
@[simp] theorem State.advance_key (s : State) : s.advance.key = s.key := rfl
@[simp] theorem State.advance_fault (s : State) : s.advance.fault = s.fault := rfl
@[simp] theorem State.advance_draws (s : State) : s.advance.draws = s.draws := rfl
@[simp] theorem State.getV_advance (s : State) (r : Reg) : s.advance.getV r = s.getV r := rfl
@[simp] theorem State.getStk_advance (s : State) (k' : Fin 16) : s.advance.getStk k' = s.getStk k' := rfl
@[simp] theorem State.readMem_advance (s : State) (a' : Nat) : s.advance.readMem a' = s.readMem a' := rfl
@[simp] theorem State.getFb_advance (s : State) (y : Fin 32) (x' : Fin 64) : s.advance.getFb y x' = s.getFb y x' := rfl
@[simp] theorem State.base_advance (s : State) : s.advance.base = s.base := rfl

/-! `State.skipIf`. -/

@[simp] theorem State.skipIf_v (s : State) (c : Bool) : (s.skipIf c).v = s.v := rfl
@[simp] theorem State.skipIf_i (s : State) (c : Bool) : (s.skipIf c).i = s.i := rfl
@[simp] theorem State.skipIf_pc (s : State) (c : Bool) : (s.skipIf c).pc = if c then s.pc + 4 else s.pc + 2 := rfl
@[simp] theorem State.skipIf_sp (s : State) (c : Bool) : (s.skipIf c).sp = s.sp := rfl
@[simp] theorem State.skipIf_stk (s : State) (c : Bool) : (s.skipIf c).stk = s.stk := rfl
@[simp] theorem State.skipIf_mem (s : State) (c : Bool) : (s.skipIf c).mem = s.mem := rfl
@[simp] theorem State.skipIf_fb (s : State) (c : Bool) : (s.skipIf c).fb = s.fb := rfl
@[simp] theorem State.skipIf_dt (s : State) (c : Bool) : (s.skipIf c).dt = s.dt := rfl
@[simp] theorem State.skipIf_st (s : State) (c : Bool) : (s.skipIf c).st = s.st := rfl
@[simp] theorem State.skipIf_key (s : State) (c : Bool) : (s.skipIf c).key = s.key := rfl
@[simp] theorem State.skipIf_fault (s : State) (c : Bool) : (s.skipIf c).fault = s.fault := rfl
@[simp] theorem State.skipIf_draws (s : State) (c : Bool) : (s.skipIf c).draws = s.draws := rfl
@[simp] theorem State.getV_skipIf (s : State) (c : Bool) (r : Reg) : (s.skipIf c).getV r = s.getV r := rfl
@[simp] theorem State.getStk_skipIf (s : State) (c : Bool) (k' : Fin 16) : (s.skipIf c).getStk k' = s.getStk k' := rfl
@[simp] theorem State.readMem_skipIf (s : State) (c : Bool) (a' : Nat) : (s.skipIf c).readMem a' = s.readMem a' := rfl
@[simp] theorem State.getFb_skipIf (s : State) (c : Bool) (y : Fin 32) (x' : Fin 64) : (s.skipIf c).getFb y x' = s.getFb y x' := rfl
@[simp] theorem State.base_skipIf (s : State) (c : Bool) : (s.skipIf c).base = s.base := rfl

/-! `State.setDt`. -/

@[simp] theorem State.setDt_v (s : State) (b : Byte) : (s.setDt b).v = s.v := rfl
@[simp] theorem State.setDt_i (s : State) (b : Byte) : (s.setDt b).i = s.i := rfl
@[simp] theorem State.setDt_pc (s : State) (b : Byte) : (s.setDt b).pc = s.pc := rfl
@[simp] theorem State.setDt_sp (s : State) (b : Byte) : (s.setDt b).sp = s.sp := rfl
@[simp] theorem State.setDt_stk (s : State) (b : Byte) : (s.setDt b).stk = s.stk := rfl
@[simp] theorem State.setDt_mem (s : State) (b : Byte) : (s.setDt b).mem = s.mem := rfl
@[simp] theorem State.setDt_fb (s : State) (b : Byte) : (s.setDt b).fb = s.fb := rfl
@[simp] theorem State.setDt_dt (s : State) (b : Byte) : (s.setDt b).dt = b := rfl
@[simp] theorem State.setDt_st (s : State) (b : Byte) : (s.setDt b).st = s.st := rfl
@[simp] theorem State.setDt_key (s : State) (b : Byte) : (s.setDt b).key = s.key := rfl
@[simp] theorem State.setDt_fault (s : State) (b : Byte) : (s.setDt b).fault = s.fault := rfl
@[simp] theorem State.setDt_draws (s : State) (b : Byte) : (s.setDt b).draws = s.draws := rfl
@[simp] theorem State.getV_setDt (s : State) (b : Byte) (r : Reg) : (s.setDt b).getV r = s.getV r := rfl
@[simp] theorem State.getStk_setDt (s : State) (b : Byte) (k' : Fin 16) : (s.setDt b).getStk k' = s.getStk k' := rfl
@[simp] theorem State.readMem_setDt (s : State) (b : Byte) (a' : Nat) : (s.setDt b).readMem a' = s.readMem a' := rfl
@[simp] theorem State.getFb_setDt (s : State) (b : Byte) (y : Fin 32) (x' : Fin 64) : (s.setDt b).getFb y x' = s.getFb y x' := rfl
@[simp] theorem State.base_setDt (s : State) (b : Byte) : (s.setDt b).base = s.base := rfl

/-! `State.setSt`. -/

@[simp] theorem State.setSt_v (s : State) (b : Byte) : (s.setSt b).v = s.v := rfl
@[simp] theorem State.setSt_i (s : State) (b : Byte) : (s.setSt b).i = s.i := rfl
@[simp] theorem State.setSt_pc (s : State) (b : Byte) : (s.setSt b).pc = s.pc := rfl
@[simp] theorem State.setSt_sp (s : State) (b : Byte) : (s.setSt b).sp = s.sp := rfl
@[simp] theorem State.setSt_stk (s : State) (b : Byte) : (s.setSt b).stk = s.stk := rfl
@[simp] theorem State.setSt_mem (s : State) (b : Byte) : (s.setSt b).mem = s.mem := rfl
@[simp] theorem State.setSt_fb (s : State) (b : Byte) : (s.setSt b).fb = s.fb := rfl
@[simp] theorem State.setSt_dt (s : State) (b : Byte) : (s.setSt b).dt = s.dt := rfl
@[simp] theorem State.setSt_st (s : State) (b : Byte) : (s.setSt b).st = b := rfl
@[simp] theorem State.setSt_key (s : State) (b : Byte) : (s.setSt b).key = s.key := rfl
@[simp] theorem State.setSt_fault (s : State) (b : Byte) : (s.setSt b).fault = s.fault := rfl
@[simp] theorem State.setSt_draws (s : State) (b : Byte) : (s.setSt b).draws = s.draws := rfl
@[simp] theorem State.getV_setSt (s : State) (b : Byte) (r : Reg) : (s.setSt b).getV r = s.getV r := rfl
@[simp] theorem State.getStk_setSt (s : State) (b : Byte) (k' : Fin 16) : (s.setSt b).getStk k' = s.getStk k' := rfl
@[simp] theorem State.readMem_setSt (s : State) (b : Byte) (a' : Nat) : (s.setSt b).readMem a' = s.readMem a' := rfl
@[simp] theorem State.getFb_setSt (s : State) (b : Byte) (y : Fin 32) (x' : Fin 64) : (s.setSt b).getFb y x' = s.getFb y x' := rfl
@[simp] theorem State.base_setSt (s : State) (b : Byte) : (s.setSt b).base = s.base := rfl

/-! `State.setFb`. -/

@[simp] theorem State.setFb_v (s : State) (f : Framebuffer) : (s.setFb f).v = s.v := rfl
@[simp] theorem State.setFb_i (s : State) (f : Framebuffer) : (s.setFb f).i = s.i := rfl
@[simp] theorem State.setFb_pc (s : State) (f : Framebuffer) : (s.setFb f).pc = s.pc := rfl
@[simp] theorem State.setFb_sp (s : State) (f : Framebuffer) : (s.setFb f).sp = s.sp := rfl
@[simp] theorem State.setFb_stk (s : State) (f : Framebuffer) : (s.setFb f).stk = s.stk := rfl
@[simp] theorem State.setFb_mem (s : State) (f : Framebuffer) : (s.setFb f).mem = s.mem := rfl
@[simp] theorem State.setFb_fb (s : State) (f : Framebuffer) : (s.setFb f).fb = f := rfl
@[simp] theorem State.setFb_dt (s : State) (f : Framebuffer) : (s.setFb f).dt = s.dt := rfl
@[simp] theorem State.setFb_st (s : State) (f : Framebuffer) : (s.setFb f).st = s.st := rfl
@[simp] theorem State.setFb_key (s : State) (f : Framebuffer) : (s.setFb f).key = s.key := rfl
@[simp] theorem State.setFb_fault (s : State) (f : Framebuffer) : (s.setFb f).fault = s.fault := rfl
@[simp] theorem State.setFb_draws (s : State) (f : Framebuffer) : (s.setFb f).draws = s.draws := rfl
@[simp] theorem State.getV_setFb (s : State) (f : Framebuffer) (r : Reg) : (s.setFb f).getV r = s.getV r := rfl
@[simp] theorem State.getStk_setFb (s : State) (f : Framebuffer) (k' : Fin 16) : (s.setFb f).getStk k' = s.getStk k' := rfl
@[simp] theorem State.readMem_setFb (s : State) (f : Framebuffer) (a' : Nat) : (s.setFb f).readMem a' = s.readMem a' := rfl
@[simp] theorem State.base_setFb (s : State) (f : Framebuffer) : (s.setFb f).base = s.base := rfl

/-! `State.setStk`. -/

@[simp] theorem State.setStk_v (s : State) (k : Fin 16) (w : Word) : (s.setStk k w).v = s.v := rfl
@[simp] theorem State.setStk_i (s : State) (k : Fin 16) (w : Word) : (s.setStk k w).i = s.i := rfl
@[simp] theorem State.setStk_pc (s : State) (k : Fin 16) (w : Word) : (s.setStk k w).pc = s.pc := rfl
@[simp] theorem State.setStk_sp (s : State) (k : Fin 16) (w : Word) : (s.setStk k w).sp = s.sp := rfl
@[simp] theorem State.setStk_stk (s : State) (k : Fin 16) (w : Word) : (s.setStk k w).stk = s.stk.set k w := rfl
@[simp] theorem State.setStk_mem (s : State) (k : Fin 16) (w : Word) : (s.setStk k w).mem = s.mem := rfl
@[simp] theorem State.setStk_fb (s : State) (k : Fin 16) (w : Word) : (s.setStk k w).fb = s.fb := rfl
@[simp] theorem State.setStk_dt (s : State) (k : Fin 16) (w : Word) : (s.setStk k w).dt = s.dt := rfl
@[simp] theorem State.setStk_st (s : State) (k : Fin 16) (w : Word) : (s.setStk k w).st = s.st := rfl
@[simp] theorem State.setStk_key (s : State) (k : Fin 16) (w : Word) : (s.setStk k w).key = s.key := rfl
@[simp] theorem State.setStk_fault (s : State) (k : Fin 16) (w : Word) : (s.setStk k w).fault = s.fault := rfl
@[simp] theorem State.setStk_draws (s : State) (k : Fin 16) (w : Word) : (s.setStk k w).draws = s.draws := rfl
@[simp] theorem State.getV_setStk (s : State) (k : Fin 16) (w : Word) (r : Reg) : (s.setStk k w).getV r = s.getV r := rfl
@[simp] theorem State.readMem_setStk (s : State) (k : Fin 16) (w : Word) (a' : Nat) : (s.setStk k w).readMem a' = s.readMem a' := rfl
@[simp] theorem State.getFb_setStk (s : State) (k : Fin 16) (w : Word) (y : Fin 32) (x' : Fin 64) : (s.setStk k w).getFb y x' = s.getFb y x' := rfl
@[simp] theorem State.base_setStk (s : State) (k : Fin 16) (w : Word) : (s.setStk k w).base = s.base := rfl

/-! `State.setSp`. -/

@[simp] theorem State.setSp_v (s : State) (k : Fin 16) : (s.setSp k).v = s.v := rfl
@[simp] theorem State.setSp_i (s : State) (k : Fin 16) : (s.setSp k).i = s.i := rfl
@[simp] theorem State.setSp_pc (s : State) (k : Fin 16) : (s.setSp k).pc = s.pc := rfl
@[simp] theorem State.setSp_sp (s : State) (k : Fin 16) : (s.setSp k).sp = k := rfl
@[simp] theorem State.setSp_stk (s : State) (k : Fin 16) : (s.setSp k).stk = s.stk := rfl
@[simp] theorem State.setSp_mem (s : State) (k : Fin 16) : (s.setSp k).mem = s.mem := rfl
@[simp] theorem State.setSp_fb (s : State) (k : Fin 16) : (s.setSp k).fb = s.fb := rfl
@[simp] theorem State.setSp_dt (s : State) (k : Fin 16) : (s.setSp k).dt = s.dt := rfl
@[simp] theorem State.setSp_st (s : State) (k : Fin 16) : (s.setSp k).st = s.st := rfl
@[simp] theorem State.setSp_key (s : State) (k : Fin 16) : (s.setSp k).key = s.key := rfl
@[simp] theorem State.setSp_fault (s : State) (k : Fin 16) : (s.setSp k).fault = s.fault := rfl
@[simp] theorem State.setSp_draws (s : State) (k : Fin 16) : (s.setSp k).draws = s.draws := rfl
@[simp] theorem State.getV_setSp (s : State) (k : Fin 16) (r : Reg) : (s.setSp k).getV r = s.getV r := rfl
@[simp] theorem State.getStk_setSp (s : State) (k : Fin 16) (k' : Fin 16) : (s.setSp k).getStk k' = s.getStk k' := rfl
@[simp] theorem State.readMem_setSp (s : State) (k : Fin 16) (a' : Nat) : (s.setSp k).readMem a' = s.readMem a' := rfl
@[simp] theorem State.getFb_setSp (s : State) (k : Fin 16) (y : Fin 32) (x' : Fin 64) : (s.setSp k).getFb y x' = s.getFb y x' := rfl
@[simp] theorem State.base_setSp (s : State) (k : Fin 16) : (s.setSp k).base = s.base := rfl

/-! `State.push`. -/

@[simp] theorem State.push_v (s : State) (w : Word) : (s.push w).v = s.v := rfl
@[simp] theorem State.push_i (s : State) (w : Word) : (s.push w).i = s.i := rfl
@[simp] theorem State.push_pc (s : State) (w : Word) : (s.push w).pc = s.pc := rfl
@[simp] theorem State.push_sp (s : State) (w : Word) : (s.push w).sp = s.sp + 1 := rfl
@[simp] theorem State.push_mem (s : State) (w : Word) : (s.push w).mem = s.mem := rfl
@[simp] theorem State.push_fb (s : State) (w : Word) : (s.push w).fb = s.fb := rfl
@[simp] theorem State.push_dt (s : State) (w : Word) : (s.push w).dt = s.dt := rfl
@[simp] theorem State.push_st (s : State) (w : Word) : (s.push w).st = s.st := rfl
@[simp] theorem State.push_key (s : State) (w : Word) : (s.push w).key = s.key := rfl
@[simp] theorem State.push_fault (s : State) (w : Word) : (s.push w).fault = s.fault := rfl
@[simp] theorem State.push_draws (s : State) (w : Word) : (s.push w).draws = s.draws := rfl
@[simp] theorem State.getV_push (s : State) (w : Word) (r : Reg) : (s.push w).getV r = s.getV r := rfl
@[simp] theorem State.readMem_push (s : State) (w : Word) (a' : Nat) : (s.push w).readMem a' = s.readMem a' := rfl
@[simp] theorem State.getFb_push (s : State) (w : Word) (y : Fin 32) (x' : Fin 64) : (s.push w).getFb y x' = s.getFb y x' := rfl
@[simp] theorem State.base_push (s : State) (w : Word) : (s.push w).base = s.base := rfl

/-! `State.pop`. -/

@[simp] theorem State.pop_v (s : State) : s.pop.v = s.v := rfl
@[simp] theorem State.pop_i (s : State) : s.pop.i = s.i := rfl
@[simp] theorem State.pop_pc (s : State) : s.pop.pc = s.pc := rfl
@[simp] theorem State.pop_sp (s : State) : s.pop.sp = s.sp - 1 := rfl
@[simp] theorem State.pop_stk (s : State) : s.pop.stk = s.stk := rfl
@[simp] theorem State.pop_mem (s : State) : s.pop.mem = s.mem := rfl
@[simp] theorem State.pop_fb (s : State) : s.pop.fb = s.fb := rfl
@[simp] theorem State.pop_dt (s : State) : s.pop.dt = s.dt := rfl
@[simp] theorem State.pop_st (s : State) : s.pop.st = s.st := rfl
@[simp] theorem State.pop_key (s : State) : s.pop.key = s.key := rfl
@[simp] theorem State.pop_fault (s : State) : s.pop.fault = s.fault := rfl
@[simp] theorem State.pop_draws (s : State) : s.pop.draws = s.draws := rfl
@[simp] theorem State.getV_pop (s : State) (r : Reg) : s.pop.getV r = s.getV r := rfl
@[simp] theorem State.getStk_pop (s : State) (k' : Fin 16) : s.pop.getStk k' = s.getStk k' := rfl
@[simp] theorem State.readMem_pop (s : State) (a' : Nat) : s.pop.readMem a' = s.readMem a' := rfl
@[simp] theorem State.getFb_pop (s : State) (y : Fin 32) (x' : Fin 64) : s.pop.getFb y x' = s.getFb y x' := rfl
@[simp] theorem State.base_pop (s : State) : s.pop.base = s.base := rfl

/-! `State.storeBytes`. -/

@[simp] theorem State.storeBytes_v (s : State) (a : Nat) (bs : List Byte) : (s.storeBytes a bs).v = s.v := rfl
@[simp] theorem State.storeBytes_i (s : State) (a : Nat) (bs : List Byte) : (s.storeBytes a bs).i = s.i := rfl
@[simp] theorem State.storeBytes_pc (s : State) (a : Nat) (bs : List Byte) : (s.storeBytes a bs).pc = s.pc := rfl
@[simp] theorem State.storeBytes_sp (s : State) (a : Nat) (bs : List Byte) : (s.storeBytes a bs).sp = s.sp := rfl
@[simp] theorem State.storeBytes_stk (s : State) (a : Nat) (bs : List Byte) : (s.storeBytes a bs).stk = s.stk := rfl
@[simp] theorem State.storeBytes_mem (s : State) (a : Nat) (bs : List Byte) : (s.storeBytes a bs).mem = s.mem.writeBytes a bs := rfl
@[simp] theorem State.storeBytes_fb (s : State) (a : Nat) (bs : List Byte) : (s.storeBytes a bs).fb = s.fb := rfl
@[simp] theorem State.storeBytes_dt (s : State) (a : Nat) (bs : List Byte) : (s.storeBytes a bs).dt = s.dt := rfl
@[simp] theorem State.storeBytes_st (s : State) (a : Nat) (bs : List Byte) : (s.storeBytes a bs).st = s.st := rfl
@[simp] theorem State.storeBytes_key (s : State) (a : Nat) (bs : List Byte) : (s.storeBytes a bs).key = s.key := rfl
@[simp] theorem State.storeBytes_fault (s : State) (a : Nat) (bs : List Byte) : (s.storeBytes a bs).fault = s.fault := rfl
@[simp] theorem State.storeBytes_draws (s : State) (a : Nat) (bs : List Byte) : (s.storeBytes a bs).draws = s.draws := rfl
@[simp] theorem State.getV_storeBytes (s : State) (a : Nat) (bs : List Byte) (r : Reg) : (s.storeBytes a bs).getV r = s.getV r := rfl
@[simp] theorem State.getStk_storeBytes (s : State) (a : Nat) (bs : List Byte) (k' : Fin 16) : (s.storeBytes a bs).getStk k' = s.getStk k' := rfl
@[simp] theorem State.getFb_storeBytes (s : State) (a : Nat) (bs : List Byte) (y : Fin 32) (x' : Fin 64) : (s.storeBytes a bs).getFb y x' = s.getFb y x' := rfl
@[simp] theorem State.base_storeBytes (s : State) (a : Nat) (bs : List Byte) : (s.storeBytes a bs).base = s.base := rfl

/-! `State.drawn`. -/

@[simp] theorem State.drawn_v (s : State) : s.drawn.v = s.v := rfl
@[simp] theorem State.drawn_i (s : State) : s.drawn.i = s.i := rfl
@[simp] theorem State.drawn_pc (s : State) : s.drawn.pc = s.pc := rfl
@[simp] theorem State.drawn_sp (s : State) : s.drawn.sp = s.sp := rfl
@[simp] theorem State.drawn_stk (s : State) : s.drawn.stk = s.stk := rfl
@[simp] theorem State.drawn_mem (s : State) : s.drawn.mem = s.mem := rfl
@[simp] theorem State.drawn_fb (s : State) : s.drawn.fb = s.fb := rfl
@[simp] theorem State.drawn_dt (s : State) : s.drawn.dt = s.dt := rfl
@[simp] theorem State.drawn_st (s : State) : s.drawn.st = s.st := rfl
@[simp] theorem State.drawn_key (s : State) : s.drawn.key = s.key := rfl
@[simp] theorem State.drawn_fault (s : State) : s.drawn.fault = s.fault := rfl
@[simp] theorem State.drawn_draws (s : State) : s.drawn.draws = s.draws + 1 := rfl
@[simp] theorem State.getV_drawn (s : State) (r : Reg) : s.drawn.getV r = s.getV r := rfl
@[simp] theorem State.getStk_drawn (s : State) (k' : Fin 16) : s.drawn.getStk k' = s.getStk k' := rfl
@[simp] theorem State.readMem_drawn (s : State) (a' : Nat) : s.drawn.readMem a' = s.readMem a' := rfl
@[simp] theorem State.getFb_drawn (s : State) (y : Fin 32) (x' : Fin 64) : s.drawn.getFb y x' = s.getFb y x' := rfl
@[simp] theorem State.base_drawn (s : State) : s.drawn.base = s.base := rfl

/-! `State.raise`. -/

@[simp] theorem State.raise_v (s : State) (f : Fault) : (s.raise f).v = s.v := rfl
@[simp] theorem State.raise_i (s : State) (f : Fault) : (s.raise f).i = s.i := rfl
@[simp] theorem State.raise_pc (s : State) (f : Fault) : (s.raise f).pc = s.pc := rfl
@[simp] theorem State.raise_sp (s : State) (f : Fault) : (s.raise f).sp = s.sp := rfl
@[simp] theorem State.raise_stk (s : State) (f : Fault) : (s.raise f).stk = s.stk := rfl
@[simp] theorem State.raise_mem (s : State) (f : Fault) : (s.raise f).mem = s.mem := rfl
@[simp] theorem State.raise_fb (s : State) (f : Fault) : (s.raise f).fb = s.fb := rfl
@[simp] theorem State.raise_dt (s : State) (f : Fault) : (s.raise f).dt = s.dt := rfl
@[simp] theorem State.raise_st (s : State) (f : Fault) : (s.raise f).st = s.st := rfl
@[simp] theorem State.raise_key (s : State) (f : Fault) : (s.raise f).key = s.key := rfl
@[simp] theorem State.raise_fault (s : State) (f : Fault) : (s.raise f).fault = some f := rfl
@[simp] theorem State.raise_draws (s : State) (f : Fault) : (s.raise f).draws = s.draws := rfl
@[simp] theorem State.getV_raise (s : State) (f : Fault) (r : Reg) : (s.raise f).getV r = s.getV r := rfl
@[simp] theorem State.getStk_raise (s : State) (f : Fault) (k' : Fin 16) : (s.raise f).getStk k' = s.getStk k' := rfl
@[simp] theorem State.readMem_raise (s : State) (f : Fault) (a' : Nat) : (s.raise f).readMem a' = s.readMem a' := rfl
@[simp] theorem State.getFb_raise (s : State) (f : Fault) (y : Fin 32) (x' : Fin 64) : (s.raise f).getFb y x' = s.getFb y x' := rfl
@[simp] theorem State.base_raise (s : State) (f : Fault) : (s.raise f).base = s.base := rfl

/-! `State.setKey`. -/

@[simp] theorem State.setKey_v (s : State) (k : Option Key) : (s.setKey k).v = s.v := rfl
@[simp] theorem State.setKey_i (s : State) (k : Option Key) : (s.setKey k).i = s.i := rfl
@[simp] theorem State.setKey_pc (s : State) (k : Option Key) : (s.setKey k).pc = s.pc := rfl
@[simp] theorem State.setKey_sp (s : State) (k : Option Key) : (s.setKey k).sp = s.sp := rfl
@[simp] theorem State.setKey_stk (s : State) (k : Option Key) : (s.setKey k).stk = s.stk := rfl
@[simp] theorem State.setKey_mem (s : State) (k : Option Key) : (s.setKey k).mem = s.mem := rfl
@[simp] theorem State.setKey_fb (s : State) (k : Option Key) : (s.setKey k).fb = s.fb := rfl
@[simp] theorem State.setKey_dt (s : State) (k : Option Key) : (s.setKey k).dt = s.dt := rfl
@[simp] theorem State.setKey_st (s : State) (k : Option Key) : (s.setKey k).st = s.st := rfl
@[simp] theorem State.setKey_key (s : State) (k : Option Key) : (s.setKey k).key = k := rfl
@[simp] theorem State.setKey_fault (s : State) (k : Option Key) : (s.setKey k).fault = s.fault := rfl
@[simp] theorem State.setKey_draws (s : State) (k : Option Key) : (s.setKey k).draws = s.draws := rfl
@[simp] theorem State.getV_setKey (s : State) (k : Option Key) (r : Reg) : (s.setKey k).getV r = s.getV r := rfl
@[simp] theorem State.getStk_setKey (s : State) (k : Option Key) (k' : Fin 16) : (s.setKey k).getStk k' = s.getStk k' := rfl
@[simp] theorem State.readMem_setKey (s : State) (k : Option Key) (a' : Nat) : (s.setKey k).readMem a' = s.readMem a' := rfl
@[simp] theorem State.getFb_setKey (s : State) (k : Option Key) (y : Fin 32) (x' : Fin 64) : (s.setKey k).getFb y x' = s.getFb y x' := rfl
@[simp] theorem State.base_setKey (s : State) (k : Option Key) : (s.setKey k).base = s.base := rfl

/-! Reading back what was written. -/

/-- A register write changes that register and no other. -/
@[simp] theorem State.getV_setV (s : State) (x r : Reg) (b : Byte) :
    (s.setV x b).getV r = if r = x then b else s.getV r := by
  simp only [State.getV, State.setV, Fin.getElem_fin, Vector.getElem_set, Fin.ext_iff]
  by_cases h : r.val = x.val
  · simp [h]
  · simp [h, Ne.symm h]

/-- The flag write changes `VF` and no other register. -/
@[simp] theorem State.getV_setFlag (s : State) (c : Bool) (r : Reg) :
    (s.setFlag c).getV r = if r = regVF then (if c then 1 else 0) else s.getV r := State.getV_setV ..

/-- After the flag and the result are written, the result stays where the two collide (42_alu.md R153). -/
@[simp] theorem State.getV_setFlagThenV (s : State) (x r : Reg) (c : Bool) (b : Byte) :
    (s.setFlagThenV x c b).getV r = if r = x then b else if r = regVF then (if c then 1 else 0) else s.getV r := by
  simp [State.setFlagThenV]

/-- The range write changes the registers up to `x` and no other (45_timer_memory.md R187). -/
@[simp] theorem State.getV_setLowRegs (s : State) (x r : Reg) (f : Nat → Byte) :
    (s.setLowRegs x f).getV r = if r ≤ x then f r.val else s.getV r := by
  simp [State.getV, State.setLowRegs]

/-- A stack write changes that cell and no other. -/
@[simp] theorem State.getStk_setStk (s : State) (k k' : Fin 16) (w : Word) :
    (s.setStk k w).getStk k' = if k' = k then w else s.getStk k' := by
  simp only [State.getStk, State.setStk, Fin.getElem_fin, Vector.getElem_set, Fin.ext_iff]
  by_cases h : k'.val = k.val
  · simp [h]
  · simp [h, Ne.symm h]

/-- The push writes the cell of the new `SP` (41_control_flow.md R123). -/
@[simp] theorem State.getStk_push (s : State) (w : Word) (k : Fin 16) :
    (s.push w).getStk k = if k = s.sp + 1 then w else s.getStk k := State.getStk_setStk ..

/-- Every cell of a framebuffer written whole is the new one's. -/
@[simp] theorem State.getFb_setFb (s : State) (f : Framebuffer) (y : Fin 32) (x : Fin 64) :
    (s.setFb f).getFb y x = f[y][x] := rfl

/-- Every cell of the blank framebuffer is off. -/
@[simp] theorem Framebuffer.blank_get (y : Fin 32) (x : Fin 64) : Framebuffer.blank[y][x] = false := by
  simp [Framebuffer.blank]

/-- The registers `FX55` stores, one by one (45_timer_memory.md R186). -/
@[simp] theorem State.lowRegs_length (s : State) (x : Reg) : (s.lowRegs x).length = x.val + 1 := by
  simp [State.lowRegs, Nat.succ_le_iff.mpr x.isLt]

theorem State.lowRegs_getD (s : State) (x r : Reg) (h : r ≤ x) (d : Byte) : (s.lowRegs x).getD r.val d = s.getV r := by
  have h1 : r.val < x.val + 1 := Nat.lt_succ_of_le h
  simp [State.lowRegs, State.getV, h1]

/-- Two states with the same fields' readings are one state: registers and stack cells read one by one. -/
theorem State.ext_of_reads {s t : State} (hv : ∀ r, t.getV r = s.getV r) (hs : ∀ k, t.getStk k = s.getStk k)
    (hf : ∀ y x, t.getFb y x = s.getFb y x) (hi : t.i = s.i) (hpc : t.pc = s.pc) (hsp : t.sp = s.sp) (hm : t.mem = s.mem)
    (hdt : t.dt = s.dt) (hst : t.st = s.st) (hk : t.key = s.key) (hfa : t.fault = s.fault) (hd : t.draws = s.draws) :
    t = s := by
  obtain ⟨v, i, pc, sp, stk, mem, fb, dt, st, key, fault, draws⟩ := s
  obtain ⟨v', i', pc', sp', stk', mem', fb', dt', st', key', fault', draws'⟩ := t
  have e1 : v' = v := Vector.ext fun n h => hv ⟨n, h⟩
  have e2 : stk' = stk := Vector.ext fun n h => hs ⟨n, h⟩
  have e3 : fb' = fb := Vector.ext fun n h => Vector.ext fun m h' => hf ⟨n, h⟩ ⟨m, h'⟩
  simp_all

end Sys2Proof.Machine
end

