-- ==== Sys2Proof/Laws/Memory.lean ====
section
/-! SUPPORT. The laws of the memory image: a read after a write, the canonical form, the address check. -/

namespace Sys2Proof.Machine

@[simp] theorem Memory.read_nil (a : Nat) : Memory.read [] a = resetByte a := rfl

theorem Memory.read_cons (c : Nat) (v : Byte) (m : Memory) (a : Nat) :
    Memory.read ((c, v) :: m) a = if a = c then v else Memory.read m a := rfl

/-- A cell below every listed address reads as it does after reset. -/
theorem Memory.read_below {m : Memory} {a : Nat} (h : ∀ d ∈ m, a < d.1) : m.read a = resetByte a := by
  induction m with
  | nil => rfl
  | cons d m ih =>
    have hd := h d (by simp)
    rw [Memory.read_cons, if_neg (by omega), ih fun e he => h e (by simp [he])]

/-- Reading what `Memory.listed` builds, where the rest lists nothing at or below `a`. -/
theorem Memory.read_listed {m : Memory} {a : Nat} (b : Byte) (h : ∀ d ∈ m, a < d.1) (a' : Nat) :
    (Memory.listed a b m).read a' = if a' = a then b else m.read a' := by
  unfold Memory.listed
  split
  · next hb =>
    split
    · next ha => rw [ha, Memory.read_below h, hb]
    · rfl
  · rfl

/-- Memory after a write reads as written at that address and as before at every other. -/
theorem Memory.read_write {m : Memory} (hm : m.Pairwise fun c d => c.1 < d.1) (a a' : Nat) (b : Byte) :
    (m.write a b).read a' = if a' = a then b else m.read a' := by
  induction m with
  | nil => exact Memory.read_listed b (by simp) a'
  | cons d m ih =>
    obtain ⟨c, v⟩ := d
    rw [List.pairwise_cons] at hm
    unfold Memory.write
    split
    · next hac =>
      refine Memory.read_listed b (fun d hd => ?_) a'
      rcases List.mem_cons.mp hd with rfl | hd
      · exact hac
      · exact Nat.lt_trans hac (hm.1 d hd)
    · split
      · next hac =>
        subst hac
        rw [Memory.read_listed b hm.1 a', Memory.read_cons]
        split <;> simp_all
      · next hac =>
        rw [Memory.read_cons, Memory.read_cons, ih hm.2]
        by_cases h1 : a' = c
        · simp [h1, Ne.symm hac]
        · simp [h1]

/-- What a memory lists after a write: `a` with the byte written, or what it listed before elsewhere. -/
theorem Memory.mem_write {m : Memory} {a : Nat} {b : Byte} {e : Host.Cell} (h : e ∈ m.write a b) :
    e = (a, b) ∧ b ≠ resetByte a ∨ e ∈ m := by
  induction m with
  | nil =>
    simp only [Memory.write, Memory.listed] at h
    split at h <;> simp_all
  | cons d m ih =>
    obtain ⟨c, v⟩ := d
    simp only [Memory.write, Memory.listed] at h
    split at h
    · split at h
      · exact .inr h
      · rcases List.mem_cons.mp h with rfl | h <;> simp_all
    · split at h
      · split at h
        · exact .inr (by simp [h])
        · rcases List.mem_cons.mp h with rfl | h <;> simp_all
      · rcases List.mem_cons.mp h with rfl | h
        · simp
        · rcases ih h with h | h
          · exact .inl h
          · exact .inr (by simp [h])

/-- A write keeps the addresses strictly rising. -/
theorem Memory.pairwise_write {m : Memory} (hm : m.Pairwise fun c d => c.1 < d.1) (a : Nat) (b : Byte) :
    (m.write a b).Pairwise fun c d => c.1 < d.1 := by
  induction m with
  | nil =>
    simp only [Memory.write, Memory.listed]
    split <;> simp
  | cons d m ih =>
    obtain ⟨c, v⟩ := d
    have hm' := List.pairwise_cons.mp hm
    simp only [Memory.write, Memory.listed]
    split
    · next hac =>
      split
      · exact hm
      · refine List.pairwise_cons.mpr ⟨fun e he => ?_, hm⟩
        rcases List.mem_cons.mp he with rfl | he
        · exact hac
        · exact Nat.lt_trans hac (hm'.1 e he)
    · next hac =>
      split
      · next hac' =>
        subst hac'
        split
        · exact hm'.2
        · exact List.pairwise_cons.mpr ⟨hm'.1, hm'.2⟩
      · next hac' =>
        refine List.pairwise_cons.mpr ⟨fun e he => ?_, ih hm'.2⟩
        rcases Memory.mem_write he with ⟨rfl, -⟩ | he
        · exact Nat.lt_of_le_of_ne (Nat.le_of_not_lt hac) (Ne.symm hac')
        · exact hm'.1 e he

/-- A write inside the address space keeps the canonical form. -/
theorem Memory.wf_write {m : Memory} (hm : m.wf) {a : Nat} (ha : a < memSize) (b : Byte) : (m.write a b).wf := by
  refine ⟨Memory.pairwise_write hm.1 a b, fun e he => ?_⟩
  rcases Memory.mem_write he with ⟨rfl, hb⟩ | he
  · exact ⟨ha, hb⟩
  · exact hm.2 e he

/-- A span of writes keeps the addresses strictly rising. -/
theorem Memory.pairwise_writeBytes {m : Memory} (hm : m.Pairwise fun c d => c.1 < d.1) (a : Nat) (bs : List Byte) :
    (m.writeBytes a bs).Pairwise fun c d => c.1 < d.1 := by
  induction bs generalizing m a with
  | nil => exact hm
  | cons b bs ih => exact ih (Memory.pairwise_write hm a b) (a + 1)

/-- A span of writes inside the address space keeps the canonical form. -/
theorem Memory.wf_writeBytes {m : Memory} (hm : m.wf) {a : Nat} (bs : List Byte) (ha : a + bs.length ≤ memSize) :
    (m.writeBytes a bs).wf := by
  induction bs generalizing m a with
  | nil => exact hm
  | cons b bs ih =>
    rw [List.length_cons] at ha
    exact ih (Memory.wf_write hm (by omega) b) (by omega)

/-- Memory after a span of writes reads as written inside the span and as before outside it. -/
theorem Memory.read_writeBytes {m : Memory} (hm : m.Pairwise fun c d => c.1 < d.1) (a a' : Nat) (bs : List Byte) :
    (m.writeBytes a bs).read a' = if a ≤ a' ∧ a' < a + bs.length then bs.getD (a' - a) 0 else m.read a' := by
  induction bs generalizing m a with
  | nil =>
    rw [if_neg (by simp)]
    rfl
  | cons b bs ih =>
    rw [Memory.writeBytes, ih (Memory.pairwise_write hm a b), Memory.read_write hm, List.length_cons]
    by_cases h : a' = a
    · subst h
      simp
    · by_cases h' : a + 1 ≤ a' ∧ a' < a + 1 + bs.length
      · obtain ⟨k, rfl⟩ : ∃ k, a' = a + 1 + k := ⟨a' - (a + 1), by omega⟩
        rw [if_pos h', if_pos (by omega), show a + 1 + k - a = k + 1 by omega, show a + 1 + k - (a + 1) = k by omega]
        rfl
      · rw [if_neg h', if_neg h, if_neg (by omega)]

/-- The canonical form decides the memory: two canonical memories that read alike are equal. -/
theorem Memory.ext_of_wf {m m' : Memory} (hm : m.wf) (hm' : m'.wf) (h : ∀ a, m.read a = m'.read a) : m = m' := by
  induction m generalizing m' with
  | nil =>
    cases m' with
    | nil => rfl
    | cons d m' =>
      obtain ⟨c, v⟩ := d
      have h1 := h c
      simp only [Memory.read_nil, Memory.read_cons, if_true] at h1
      exact absurd h1.symm (hm'.2 (c, v) (by simp)).2
  | cons d m ih =>
    obtain ⟨c, v⟩ := d
    have hp := List.pairwise_cons.mp hm.1
    have hv := (hm.2 (c, v) (by simp)).2
    cases m' with
    | nil =>
      have h1 := h c
      simp only [Memory.read_nil, Memory.read_cons, if_true] at h1
      exact absurd h1 hv
    | cons d' m' =>
      obtain ⟨c', v'⟩ := d'
      have hp' := List.pairwise_cons.mp hm'.1
      have hv' := (hm'.2 (c', v') (by simp)).2
      have hc : c = c' := by
        rcases Nat.lt_trichotomy c c' with hlt | heq | hgt
        · have h1 := h c
          rw [Memory.read_cons, if_pos rfl, Memory.read_below (m := (c', v') :: m')] at h1
          · exact absurd h1 hv
          · intro e he
            rcases List.mem_cons.mp he with rfl | he
            · exact hlt
            · exact Nat.lt_trans hlt (hp'.1 e he)
        · exact heq
        · have h1 := h c'
          rw [Memory.read_cons c', if_pos rfl, Memory.read_below (m := (c, v) :: m)] at h1
          · exact absurd h1.symm hv'
          · intro e he
            rcases List.mem_cons.mp he with rfl | he
            · exact hgt
            · exact Nat.lt_trans hgt (hp.1 e he)
      subst hc
      have h1 := h c
      rw [Memory.read_cons, Memory.read_cons, if_pos rfl, if_pos rfl] at h1
      subst h1
      rw [ih ⟨hp.2, fun e he => hm.2 e (by simp [he])⟩ ⟨hp'.2, fun e he => hm'.2 e (by simp [he])⟩ fun a => ?_]
      by_cases ha : a = c
      · rw [ha, Memory.read_below hp.1, Memory.read_below hp'.1]
      · have h2 := h a
        rwa [Memory.read_cons, Memory.read_cons, if_neg ha, if_neg ha] at h2

@[simp] theorem Memory.readBytes_length (m : Memory) (a n : Nat) : (m.readBytes a n).length = n := by
  induction n generalizing a with
  | zero => rfl
  | succ n ih => simp [Memory.readBytes, ih]

/-- The bytes read from a span are those of its addresses in order. -/
theorem Memory.readBytes_getD (m : Memory) (a n k : Nat) (h : k < n) (d : Byte) :
    (m.readBytes a n).getD k d = m.read (a + k) := by
  induction n generalizing a k with
  | zero => omega
  | succ n ih =>
    cases k with
    | zero => rfl
    | succ k =>
      have := ih (a + 1) k (by omega)
      rw [Memory.readBytes, List.getD_cons_succ, this]
      congr 1
      omega

/-! Stores, through the state. -/

/-- A store reads back inside its span and changes nothing outside it. -/
theorem State.readMem_storeBytes (s : State) (hm : s.mem.wf) (a a' : Nat) (bs : List Byte) :
    (s.storeBytes a bs).readMem a' = if a ≤ a' ∧ a' < a + bs.length then bs.getD (a' - a) 0 else s.readMem a' :=
  Memory.read_writeBytes hm.1 a a' bs

/-! The address check (20_memory.md R59). -/

theorem firstBadAddress_eq_none {a n : Nat} : firstBadAddress a n = none ↔ n = 0 ∨ a + n ≤ memSize := by
  unfold firstBadAddress
  split <;> simp_all

theorem firstBadAddress_of_fits {a n : Nat} (h : a + n ≤ memSize) : firstBadAddress a n = none := by
  simp [firstBadAddress, h]

theorem firstBadAddress_of_over {a n : Nat} (hn : 0 < n) (h : memSize < a + n) :
    firstBadAddress a n = some (max a memSize) := by
  simp [firstBadAddress, Nat.ne_of_gt hn, Nat.not_le.mpr h]

theorem firstBadAddress_eq_some {a n bad : Nat} (h : firstBadAddress a n = some bad) :
    0 < n ∧ memSize < a + n ∧ bad = max a memSize := by
  unfold firstBadAddress at h
  by_cases hc : n = 0 ∨ a + n ≤ memSize
  · simp [hc] at h
  · rw [if_neg hc] at h
    exact ⟨by omega, by omega, (Option.some.inj h).symm⟩

/-- A checked span answers the address fault, or the state given. -/
theorem withSpan_cases {s t t' : State} {a n : Nat} (h : withSpan s a n t = .next t') :
    (0 < n ∧ memSize < a + n ∧ t' = s.raise (.addressFault s.pc (max a memSize))) ∨
      ((n = 0 ∨ a + n ≤ memSize) ∧ t' = t) := by
  unfold withSpan takeFault at h
  split at h <;> cases h
  · obtain ⟨h1, h2, rfl⟩ := firstBadAddress_eq_some ‹_›
    exact .inl ⟨h1, h2, rfl⟩
  · exact .inr ⟨firstBadAddress_eq_none.mp ‹_›, rfl⟩

theorem withSpan_of_fits {s t : State} {a n : Nat} (h : a + n ≤ memSize) : withSpan s a n t = .next t := by
  simp [withSpan, firstBadAddress_of_fits h]

theorem withSpan_zero (s t : State) (a : Nat) : withSpan s a 0 t = .next t := rfl

theorem withSpan_of_over {s t : State} {a n : Nat} (hn : 0 < n) (h : memSize < a + n) :
    withSpan s a n t = .next (s.raise (.addressFault s.pc (max a memSize))) := by
  simp [withSpan, firstBadAddress_of_over hn h, takeFault]

/-! Fetching (40_dispatch.md R101). -/

theorem fetch_of_fits {s : State} (h : s.pc.toNat ≤ 0xFFE) : fetch s = .ok (s.wordAt s.pc.toNat) := by
  simp [fetch, firstBadAddress_of_fits (show s.pc.toNat + 2 ≤ memSize by simp [memSize]; omega)]

theorem fetch_of_over {s : State} (h : 0xFFF ≤ s.pc.toNat) :
    fetch s = .error (.addressFault s.pc (max s.pc.toNat 0x1000)) := by
  simp [fetch, firstBadAddress_of_over (a := s.pc.toNat) (n := 2) (by omega) (by simp [memSize]; omega), memSize]

end Sys2Proof.Machine
end

