-- ==== Sys2Proof/Laws/Display.lean ====
section
/-! SUPPORT. The XOR raster: what drawing does to every cell and to the collision flag (43_display.md R160 to R162). A draw is
a list of toggles of distinct cells, so it is one exclusive or with the set of those cells. -/

namespace Sys2Proof.Machine

/-- A cell of the framebuffer. -/
abbrev Cell2 := Fin 32 × Fin 64

/-- The toggle of one cell. -/
def toggleCell (c : Raster) (p : Cell2) : Raster := togglePixel p.1.val p.2.val c

theorem wrapRow_val (y : Nat) : (wrapRow y).val = y % 32 := rfl

theorem wrapCol_val (x : Nat) : (wrapCol x).val = x % 64 := rfl

theorem togglePixel_eq (y x : Nat) (c : Raster) : togglePixel y x c = toggleCell c (wrapRow y, wrapCol x) := by
  have hy : wrapRow (wrapRow y).val = wrapRow y := Fin.ext (by simp [wrapRow_val])
  have hx : wrapCol (wrapCol x).val = wrapCol x := Fin.ext (by simp [wrapCol_val])
  simp only [toggleCell, togglePixel, hy, hx]

/-- A toggle turns its cell over and leaves every other. -/
theorem toggleCell_get (c : Raster) (p : Cell2) (y : Fin 32) (x : Fin 64) :
    (toggleCell c p).fb[y][x] = (c.fb[y][x] ^^ decide ((y, x) = p)) := by
  obtain ⟨py, px⟩ := p
  have hy : wrapRow py.val = py := Fin.ext (by simp [wrapRow_val, Nat.mod_eq_of_lt py.isLt])
  have hx : wrapCol px.val = px := Fin.ext (by simp [wrapCol_val, Nat.mod_eq_of_lt px.isLt])
  simp only [toggleCell, togglePixel, hy, hx, Fin.getElem_fin]
  by_cases h1 : y = py
  · by_cases h2 : x = px
    · simp [h1, h2]
    · have h2' : px.val ≠ x.val := fun h => h2 (Fin.ext h.symm)
      simp [h1, h2, Vector.getElem_set_ne _ _ h2']
  · have h1' : py.val ≠ y.val := fun h => h1 (Fin.ext h.symm)
    simp [h1, Vector.getElem_set_ne _ _ h1']

/-- A toggle collides when its cell was on. -/
theorem toggleCell_hit (c : Raster) (p : Cell2) : (toggleCell c p).hit = (c.hit || c.fb[p.1][p.2]) := by
  obtain ⟨py, px⟩ := p
  have hy : wrapRow py.val = py := Fin.ext (by simp [wrapRow_val, Nat.mod_eq_of_lt py.isLt])
  have hx : wrapCol px.val = px := Fin.ext (by simp [wrapCol_val, Nat.mod_eq_of_lt px.isLt])
  simp only [toggleCell, togglePixel, hy, hx]

/-- Toggling distinct cells is one exclusive or with their set. -/
theorem foldl_toggle_get {ps : List Cell2} (h : ps.Nodup) (c : Raster) (y : Fin 32) (x : Fin 64) :
    (ps.foldl toggleCell c).fb[y][x] = (c.fb[y][x] ^^ decide ((y, x) ∈ ps)) := by
  induction ps generalizing c with
  | nil => simp
  | cons p ps ih =>
    obtain ⟨hp, hps⟩ := List.nodup_cons.mp h
    rw [List.foldl_cons, ih hps, toggleCell_get]
    by_cases h1 : (y, x) = p
    · simp [h1, hp]
    · simp [h1]

/-- Toggling distinct cells collides when one of them was on at the start. -/
theorem foldl_toggle_hit {ps : List Cell2} (h : ps.Nodup) (c : Raster) :
    (ps.foldl toggleCell c).hit = (c.hit || ps.any fun p => c.fb[p.1][p.2]) := by
  induction ps generalizing c with
  | nil => simp
  | cons p ps ih =>
    obtain ⟨hp, hps⟩ := List.nodup_cons.mp h
    have hany : (ps.any fun q => (toggleCell c p).fb[q.1][q.2]) = ps.any fun q => c.fb[q.1][q.2] := by
      rw [Bool.eq_iff_iff, List.any_eq_true, List.any_eq_true]
      refine exists_congr fun q => and_congr_right fun hq => ?_
      have hne : q ≠ p := fun he => hp (he ▸ hq)
      rw [toggleCell_get]
      simp [hne]
    rw [List.foldl_cons, ih hps, hany, toggleCell_hit, List.any_cons, Bool.or_assoc]

/-- The cells one sprite row toggles. -/
def rowCells (b : Byte) (x0 y : Nat) : List Cell2 :=
  ((List.range 8).filter fun c => b.getLsbD (7 - c)).map fun c => (wrapRow y, wrapCol (x0 + c))

/-- The cells a sprite toggles, the first row at `y`. -/
def spriteCells (x0 : Nat) : Nat → List Byte → List Cell2
  | _, [] => []
  | y, b :: bs => rowCells b x0 y ++ spriteCells x0 (y + 1) bs

theorem drawRow_eq (b : Byte) (x0 y : Nat) (c : Raster) : drawRow b x0 y c = (rowCells b x0 y).foldl toggleCell c := by
  rw [drawRow, rowCells, List.foldl_map, List.foldl_filter]
  congr
  funext c col
  simp only [drawBit, togglePixel_eq]

theorem drawRows_eq (x0 y : Nat) (bs : List Byte) (c : Raster) :
    drawRows x0 y bs c = (spriteCells x0 y bs).foldl toggleCell c := by
  induction bs generalizing y c with
  | nil => rfl
  | cons b bs ih => rw [drawRows, ih, drawRow_eq, spriteCells, List.foldl_append]

theorem mem_rowCells {b : Byte} {x0 y : Nat} {p : Cell2} :
    p ∈ rowCells b x0 y ↔ ∃ c, c < 8 ∧ b.getLsbD (7 - c) = true ∧ p = (wrapRow y, wrapCol (x0 + c)) := by
  simp only [rowCells, List.mem_map, List.mem_filter, List.mem_range, eq_comm (a := p), and_assoc]

/-- A cell is toggled exactly when a set bit of a sprite byte falls on it (43_display.md R162). -/
theorem mem_spriteCells {x0 y : Nat} {bs : List Byte} {p : Cell2} :
    p ∈ spriteCells x0 y bs ↔ ∃ r c, r < bs.length ∧ c < 8 ∧ (bs.getD r 0).getLsbD (7 - c) = true ∧
      p.1.val = (y + r) % 32 ∧ p.2.val = (x0 + c) % 64 := by
  induction bs generalizing y with
  | nil => simp [spriteCells]
  | cons b bs ih =>
    rw [spriteCells, List.mem_append, mem_rowCells, ih]
    constructor
    · rintro (⟨c, hc, hb, rfl⟩ | ⟨r, c, hr, hc, hb, h1, h2⟩)
      · exact ⟨0, c, by simp, hc, hb, rfl, rfl⟩
      · exact ⟨r + 1, c, by simpa using hr, hc, by simpa using hb, by rw [h1]; congr 1; omega, h2⟩
    · rintro ⟨r, c, hr, hc, hb, h1, h2⟩
      cases r with
      | zero => exact .inl ⟨c, hc, hb, Prod.ext (Fin.ext h1) (Fin.ext h2)⟩
      | succ r =>
        exact .inr ⟨r, c, by simpa using hr, hc, by simpa using hb, by rw [h1]; congr 1; omega, h2⟩

theorem rowCells_nodup (b : Byte) (x0 y : Nat) : (rowCells b x0 y).Nodup := by
  refine List.Nodup.map_on ?_ (List.nodup_range.filter _)
  intro c hc d hd h
  simp only [List.mem_filter, List.mem_range] at hc hd
  have h2 := congrArg (fun p : Cell2 => p.2.val) h
  simp only [wrapCol_val] at h2
  omega

/-- No cell is toggled twice: at most 32 distinct rows, 8 distinct columns (43_display.md R160 (5)). -/
theorem spriteCells_nodup (x0 y : Nat) (bs : List Byte) (h : bs.length ≤ 32) : (spriteCells x0 y bs).Nodup := by
  induction bs generalizing y with
  | nil => simp [spriteCells]
  | cons b bs ih =>
    rw [List.length_cons] at h
    refine List.Nodup.append (rowCells_nodup b x0 y) (ih (y + 1) (by omega)) ?_
    intro p hp hq
    obtain ⟨c, -, -, rfl⟩ := mem_rowCells.mp hp
    obtain ⟨r, c', hr, -, -, h1, -⟩ := mem_spriteCells.mp hq
    simp only [wrapRow_val] at h1
    omega

@[simp] theorem State.sprite_length (s : State) (n : Nibble) : (s.sprite n).length = n.toNat := Memory.readBytes_length ..

theorem spriteCells_sprite_nodup (s : State) (n : Nibble) (x0 y : Nat) : (spriteCells x0 y (s.sprite n)).Nodup :=
  spriteCells_nodup _ _ _ (by have := n.isLt; simp; omega)

/-- Membership in the sprite's cells is the sprite mask of 43_display.md R161. -/
theorem mem_sprite_iff {s : State} {x y : Reg} {n : Nibble} {row : Fin 32} {col : Fin 64} :
    (row, col) ∈ spriteCells (s.getV x).toNat (s.getV y).toNat (s.sprite n) ↔ spriteCovers s x y n row col := by
  rw [mem_spriteCells, State.sprite_length]
  refine exists_congr fun r => exists_congr fun c => and_congr_right fun hr => ?_
  rw [State.sprite, Memory.readBytes_getD _ _ _ _ hr]
  rfl

/-- What `DXYN` draws, cell by cell: an exclusive or with the sprite mask (43_display.md R161). -/
theorem State.rasterAfter_get (s : State) (x y : Reg) (n : Nibble) (row : Fin 32) (col : Fin 64) :
    (s.rasterAfter x y n).fb[row][col] = true ↔ (s.getFb row col = true ↔ ¬ spriteCovers s x y n row col) := by
  rw [State.rasterAfter, drawRows_eq, foldl_toggle_get (spriteCells_sprite_nodup ..), ← mem_sprite_iff]
  simp only [State.getFb]
  generalize s.fb[row][col] = b
  by_cases h : (row, col) ∈ spriteCells (s.getV x).toNat (s.getV y).toNat (s.sprite n) <;> cases b <;> simp [h]

/-- `DXYN` collides exactly when a cell of the sprite mask was on (43_display.md R161). -/
theorem State.rasterAfter_hit (s : State) (x y : Reg) (n : Nibble) :
    (s.rasterAfter x y n).hit = true ↔ ∃ row col, s.getFb row col = true ∧ spriteCovers s x y n row col := by
  rw [State.rasterAfter, drawRows_eq, foldl_toggle_hit (spriteCells_sprite_nodup ..), Bool.false_or, List.any_eq_true]
  constructor
  · rintro ⟨⟨row, col⟩, hm, hon⟩
    exact ⟨row, col, hon, mem_sprite_iff.mp hm⟩
  · rintro ⟨row, col, hon, hc⟩
    exact ⟨(row, col), mem_sprite_iff.mpr hc, hon⟩

end Sys2Proof.Machine
end

