-- ==== Sys2Proof/Laws/Operands.lean ====
section
/-! SUPPORT. What the operand forms and the flag computations say, as numbers. -/

namespace Sys2Proof.Machine

@[simp] theorem zext12_toNat (nnn : Addr12) : (zext12 nnn).toNat = nnn.toNat := by
  have := nnn.isLt
  simp [zext12]
  omega

@[simp] theorem zext8_toNat (b : Byte) : (zext8 b).toNat = b.toNat := by
  have := b.isLt
  simp [zext8]
  omega

@[simp] theorem byteOfKey_toNat (k : Key) : (byteOfKey k).toNat = k.val := by
  have := k.isLt
  simp [byteOfKey]
  omega

/-- The latch holds the key numbered by all 8 bits of `b` (44_input.md R170). -/
theorem keyIs_iff {key : Option Key} {b : Byte} : keyIs key b = true ↔ ∃ k, key = some k ∧ k.val = b.toNat := by
  cases key <;> simp [keyIs, ← BitVec.toNat_inj]

/-- The sum of `BNNN` is never reduced (41_control_flow.md R124). -/
theorem jumpSum_toNat (nnn : Addr12) (b : Byte) : (zext12 nnn + zext8 b).toNat = nnn.toNat + b.toNat := by
  have := nnn.isLt
  have := b.isLt
  rw [BitVec.toNat_add, zext12_toNat, zext8_toNat]
  omega

/-- `I` after `FX55` and `FX65` (45_timer_memory.md R186, R187). -/
theorem State.advanceI_toNat (s : State) (x : Reg) : (s.advanceI x).i.toNat = (s.i.toNat + x.val + 1) % 65536 := by
  simp only [State.advanceI_i, spanOfReg, BitVec.toNat_add, BitVec.toNat_ofNat]
  omega

@[simp] theorem decimalDigits_length (b : Byte) : (decimalDigits b).length = 3 := rfl

theorem decimalDigits_hundreds (b : Byte) : ((decimalDigits b).getD 0 0).toNat = b.toNat / 100 := by
  have := b.isLt
  simp [decimalDigits]
  omega

theorem decimalDigits_tens (b : Byte) : ((decimalDigits b).getD 1 0).toNat = b.toNat / 10 % 10 := by
  have := b.isLt
  simp [decimalDigits]
  omega

theorem decimalDigits_units (b : Byte) : ((decimalDigits b).getD 2 0).toNat = b.toNat % 10 := by
  simp [decimalDigits]
  omega

@[simp] theorem flagCarry_iff (a b : Byte) : flagCarry a b = true ↔ 255 < a.toNat + b.toNat := by simp [flagCarry]

@[simp] theorem flagNoBorrow_iff (a b : Byte) : flagNoBorrow a b = true ↔ b.toNat ≤ a.toNat := by simp [flagNoBorrow]

/-- The flag of a right shift, as the number `VF` takes (42_alu.md R149). -/
theorem flagBitOutRight_toNat (b : Byte) : ((if flagBitOutRight b then 1 else 0 : Byte)).toNat = b.toNat % 2 := by
  have h : b.getLsbD 0 = decide (b.toNat % 2 = 1) := by rw [BitVec.getLsbD, Nat.testBit_zero]
  rw [flagBitOutRight, h]
  rcases Nat.mod_two_eq_zero_or_one b.toNat with h | h <;> simp [h]

/-- The flag of a left shift, as the number `VF` takes (42_alu.md R150). -/
theorem flagBitOutLeft_toNat (b : Byte) : ((if flagBitOutLeft b then 1 else 0 : Byte)).toNat = b.toNat / 128 % 2 := by
  have h : b.getLsbD 7 = decide (b.toNat / 128 % 2 = 1) := by
    rw [BitVec.getLsbD, Nat.testBit_eq_decide_div_mod_eq]
  rw [flagBitOutLeft, h]
  rcases Nat.mod_two_eq_zero_or_one (b.toNat / 128) with h | h <;> simp [h]

/-- One decrement with floor 0 is subtraction on natural numbers (60_exceptions.md R216). -/
theorem countDown_toNat (b : Byte) : (countDown b).toNat = b.toNat - 1 := by
  have := b.isLt
  unfold countDown
  split
  · next h => simp [h]
  · next h =>
    have h0 : b.toNat ≠ 0 := fun h' => h (BitVec.eq_of_toNat_eq h')
    rw [BitVec.toNat_sub]
    simp
    omega

end Sys2Proof.Machine
end

