-- ==== Sys2Proof/Laws/PerInstr.lean ====
section
/-! SUPPORT. Statements made per instruction. Encoding: the word of an instruction carries the literal bits of its own row of the
opcode map (30_encoding.md R85: a word `w` is the instruction iff `w AND mask = match`). -/

namespace Sys2Proof.Laws.Encoding

/-- Mask and match of an instruction's row, as spec/opcode_table.json gives them. -/
def maskMatch : Instr → Word × Word
  | .cls => (0xFFFF, 0x00E0)
  | .ret => (0xFFFF, 0x00EE)
  | .jp _ => (0xF000, 0x1000)
  | .call _ => (0xF000, 0x2000)
  | .seImm _ _ => (0xF000, 0x3000)
  | .sneImm _ _ => (0xF000, 0x4000)
  | .seReg _ _ => (0xF00F, 0x5000)
  | .ldImm _ _ => (0xF000, 0x6000)
  | .addImm _ _ => (0xF000, 0x7000)
  | .ldReg _ _ => (0xF00F, 0x8000)
  | .orReg _ _ => (0xF00F, 0x8001)
  | .andReg _ _ => (0xF00F, 0x8002)
  | .xorReg _ _ => (0xF00F, 0x8003)
  | .addReg _ _ => (0xF00F, 0x8004)
  | .subReg _ _ => (0xF00F, 0x8005)
  | .shrReg _ _ => (0xF00F, 0x8006)
  | .subnReg _ _ => (0xF00F, 0x8007)
  | .shlReg _ _ => (0xF00F, 0x800E)
  | .sneReg _ _ => (0xF00F, 0x9000)
  | .ldI _ => (0xF000, 0xA000)
  | .jpV0 _ => (0xF000, 0xB000)
  | .rnd _ _ => (0xF000, 0xC000)
  | .drw _ _ _ => (0xF000, 0xD000)
  | .skp _ => (0xF0FF, 0xE09E)
  | .sknp _ => (0xF0FF, 0xE0A1)
  | .ldVxDt _ => (0xF0FF, 0xF007)
  | .ldVxK _ => (0xF0FF, 0xF00A)
  | .ldDtVx _ => (0xF0FF, 0xF015)
  | .ldStVx _ => (0xF0FF, 0xF018)
  | .addI _ => (0xF0FF, 0xF01E)
  | .ldF _ => (0xF0FF, 0xF029)
  | .ldB _ => (0xF0FF, 0xF033)
  | .ldMemVx _ => (0xF0FF, 0xF055)
  | .ldVxMem _ => (0xF0FF, 0xF065)
  | .undef _ => (0x0000, 0x0000)

/-- The literal bits of the row stand in the instruction's word. -/
def Statement (i : Instr) : Prop := encode i &&& (maskMatch i).1 = (maskMatch i).2

theorem cls : Statement .cls := rfl

theorem ret : Statement .ret := rfl

theorem jp (nnn : Addr12) : Statement (.jp nnn) :=
  (encodeNNN_and_F000 ..).trans rfl

theorem call (nnn : Addr12) : Statement (.call nnn) :=
  (encodeNNN_and_F000 ..).trans rfl

theorem seImm (x : Reg) (nn : Byte) : Statement (.seImm x nn) :=
  (encodeXNN_and_F000 ..).trans rfl

theorem sneImm (x : Reg) (nn : Byte) : Statement (.sneImm x nn) :=
  (encodeXNN_and_F000 ..).trans rfl

theorem seReg (x y : Reg) : Statement (.seReg x y) :=
  (encodeXYN_and_F00F ..).trans rfl

theorem ldImm (x : Reg) (nn : Byte) : Statement (.ldImm x nn) :=
  (encodeXNN_and_F000 ..).trans rfl

theorem addImm (x : Reg) (nn : Byte) : Statement (.addImm x nn) :=
  (encodeXNN_and_F000 ..).trans rfl

theorem ldReg (x y : Reg) : Statement (.ldReg x y) :=
  (encodeXYN_and_F00F ..).trans rfl

theorem orReg (x y : Reg) : Statement (.orReg x y) :=
  (encodeXYN_and_F00F ..).trans rfl

theorem andReg (x y : Reg) : Statement (.andReg x y) :=
  (encodeXYN_and_F00F ..).trans rfl

theorem xorReg (x y : Reg) : Statement (.xorReg x y) :=
  (encodeXYN_and_F00F ..).trans rfl

theorem addReg (x y : Reg) : Statement (.addReg x y) :=
  (encodeXYN_and_F00F ..).trans rfl

theorem subReg (x y : Reg) : Statement (.subReg x y) :=
  (encodeXYN_and_F00F ..).trans rfl

theorem shrReg (x y : Reg) : Statement (.shrReg x y) :=
  (encodeXYN_and_F00F ..).trans rfl

theorem subnReg (x y : Reg) : Statement (.subnReg x y) :=
  (encodeXYN_and_F00F ..).trans rfl

theorem shlReg (x y : Reg) : Statement (.shlReg x y) :=
  (encodeXYN_and_F00F ..).trans rfl

theorem sneReg (x y : Reg) : Statement (.sneReg x y) :=
  (encodeXYN_and_F00F ..).trans rfl

theorem ldI (nnn : Addr12) : Statement (.ldI nnn) :=
  (encodeNNN_and_F000 ..).trans rfl

theorem jpV0 (nnn : Addr12) : Statement (.jpV0 nnn) :=
  (encodeNNN_and_F000 ..).trans rfl

theorem rnd (x : Reg) (nn : Byte) : Statement (.rnd x nn) :=
  (encodeXNN_and_F000 ..).trans rfl

theorem drw (x y : Reg) (n : Nibble) : Statement (.drw x y n) :=
  (encodeXYN_and_F000 ..).trans rfl

theorem skp (x : Reg) : Statement (.skp x) :=
  (encodeXNN_and_F0FF ..).trans rfl

theorem sknp (x : Reg) : Statement (.sknp x) :=
  (encodeXNN_and_F0FF ..).trans rfl

theorem ldVxDt (x : Reg) : Statement (.ldVxDt x) :=
  (encodeXNN_and_F0FF ..).trans rfl

theorem ldVxK (x : Reg) : Statement (.ldVxK x) :=
  (encodeXNN_and_F0FF ..).trans rfl

theorem ldDtVx (x : Reg) : Statement (.ldDtVx x) :=
  (encodeXNN_and_F0FF ..).trans rfl

theorem ldStVx (x : Reg) : Statement (.ldStVx x) :=
  (encodeXNN_and_F0FF ..).trans rfl

theorem addI (x : Reg) : Statement (.addI x) :=
  (encodeXNN_and_F0FF ..).trans rfl

theorem ldF (x : Reg) : Statement (.ldF x) :=
  (encodeXNN_and_F0FF ..).trans rfl

theorem ldB (x : Reg) : Statement (.ldB x) :=
  (encodeXNN_and_F0FF ..).trans rfl

theorem ldMemVx (x : Reg) : Statement (.ldMemVx x) :=
  (encodeXNN_and_F0FF ..).trans rfl

theorem ldVxMem (x : Reg) : Statement (.ldVxMem x) :=
  (encodeXNN_and_F0FF ..).trans rfl

theorem undef (w : Word) : Statement (.undef w) := by simp [Statement, maskMatch]

end Sys2Proof.Laws.Encoding
end

