-- ==== Sys2Proof/Tests/Slice0.lean ====
section
/-! SUPPORT. The model's own tests: well-formedness, decoding of words written out from the spec's encodings, single steps with
the values of 95_test_vectors.md (each test carries its vector's name), and a witness for the hypotheses of each statement. -/

namespace Sys2Proof.Tests

open Sys2Proof.Machine

/-! Well-formedness: `UNDEF` of a defined word is refused, family by family (30_encoding.md R86). -/

theorem test_wf_refuses_family0 : (Instr.undef 0x00E0).wellFormed = false ∧ (Instr.undef 0x00EE).wellFormed = false := by decide

theorem test_wf_refuses_whole_families :
    ([0x1ABC, 0x2ABC, 0x3A42, 0x4A42, 0x6005, 0x7105, 0xA123, 0xB300, 0xC10F, 0xD7A3] : List Word).all
      (fun w => !(Instr.undef w).wellFormed) = true := by decide

theorem test_wf_refuses_sub_dispatched :
    ([0x5120, 0x9120, 0x8120, 0x8121, 0x8122, 0x8123, 0x8124, 0x8125, 0x8126, 0x8127, 0x812E] : List Word).all
      (fun w => !(Instr.undef w).wellFormed) = true := by decide

theorem test_wf_refuses_families_e_f :
    ([0xE19E, 0xE1A1, 0xF307, 0xF30A, 0xF315, 0xF318, 0xF31E, 0xF329, 0xF333, 0xF355, 0xF365] : List Word).all
      (fun w => !(Instr.undef w).wellFormed) = true := by decide

theorem test_wf_accepts_undefined_words :
    ([0x0000, 0x0123, 0x00E1, 0x01E0, 0x5121, 0x8128, 0x812D, 0x812F, 0x9123, 0xE19F, 0xEE00, 0xF1FF, 0xF000] : List Word).all
      (fun w => (Instr.undef w).wellFormed) = true := by decide

theorem test_encode_refuses_ill_formed : encode? (.undef 0x00E0) = none ∧ encode? (.undef 0x8128) = some 0x8128 ∧
    encode? (.drw 0xF 0xF 0xF) = some 0xDFFF := by decide

/-! Decoding: one word per constructor, written out nibble by nibble from 30_encoding.md R81, R82, R85. -/

theorem test_decode_fixed : decode 0x00E0 = .cls ∧ decode 0x00EE = .ret := by decide

theorem test_decode_nnn : decode 0x1ABC = .jp 0xABC ∧ decode 0x2ABC = .call 0xABC ∧ decode 0xA123 = .ldI 0x123 ∧
    decode 0xBFFF = .jpV0 0xFFF := by decide

theorem test_decode_xnn : decode 0x3A42 = .seImm 0xA 0x42 ∧ decode 0x4A42 = .sneImm 0xA 0x42 ∧ decode 0x6C7F = .ldImm 0xC 0x7F ∧
    decode 0x7FFF = .addImm 0xF 0xFF ∧ decode 0xC10F = .rnd 0x1 0x0F := by decide

theorem test_decode_xy : decode 0x5120 = .seReg 1 2 ∧ decode 0x9120 = .sneReg 1 2 ∧ decode 0x81F0 = .ldReg 1 0xF ∧
    decode 0x8121 = .orReg 1 2 ∧ decode 0x8122 = .andReg 1 2 ∧ decode 0x8123 = .xorReg 1 2 := by decide

theorem test_decode_xy_flags : decode 0x8124 = .addReg 1 2 ∧ decode 0x8F15 = .subReg 0xF 1 ∧ decode 0x8126 = .shrReg 1 2 ∧
    decode 0x8127 = .subnReg 1 2 ∧ decode 0x812E = .shlReg 1 2 := by decide

theorem test_decode_xyn : decode 0xD7A3 = .drw 7 0xA 3 ∧ decode 0xD010 = .drw 0 1 0 := by decide

theorem test_decode_e : decode 0xE19E = .skp 1 ∧ decode 0xEFA1 = .sknp 0xF := by decide

theorem test_decode_f : decode 0xF307 = .ldVxDt 3 ∧ decode 0xF30A = .ldVxK 3 ∧ decode 0xF315 = .ldDtVx 3 ∧
    decode 0xFF18 = .ldStVx 0xF ∧ decode 0xF21E = .addI 2 ∧ decode 0xF129 = .ldF 1 ∧ decode 0xF033 = .ldB 0 ∧
    decode 0xF355 = .ldMemVx 3 ∧ decode 0xF265 = .ldVxMem 2 := by decide

theorem test_decode_undef : ([0x0000, 0x0123, 0x00E1, 0x01E0, 0x5121, 0x8128, 0x9123, 0xE19F, 0xE09F, 0xF1FF] : List Word).all
    (fun w => decode w == .undef w) = true := by decide

/-- The fields of 0xD7A3 (95_test_vectors.md, the decode check of 2.1). -/
theorem test_fields : fieldFamily 0xD7A3 = 0xD ∧ fieldX 0xD7A3 = 7 ∧ fieldY 0xD7A3 = 0xA ∧ fieldN 0xD7A3 = 3 ∧
    fieldNN 0xD7A3 = 0xA3 ∧ fieldNNN 0xD7A3 = 0x7A3 := by decide

theorem test_decode_bytes : decodeBytes [0x60, 0x05, 0x70] = .ok (.ldImm 0 5, [0x70]) ∧ decodeBytes [0x60] = .error .tooShort := by
  decide

theorem test_table_word : decodeTableWord 16 0x22F0 = some (.call 0x2F0) ∧ decodeTableWord 16 0xF933 = some (.ldB 9) := by decide

/-! One step on a small state. -/

/-- The check `p` on the state an outcome gives, false where it gives none. -/
def ok (r : Result) (p : State → Bool) : Bool :=
  match r with
  | .next t => p t
  | .fault _ => false
  | .refused _ => false

/-- The step that runs the word `w`. -/
def run (w : Nat) (s : State) : Result := step (s.withFetchWord 16 w)

/-- The reset state. -/
def r0 : State := State.reset

/-- Registers `V1` and `V2` set. -/
def v12 (a b : Byte) : State := (r0.setV 1 a).setV 2 b

/-- `I` and the bytes it points to. -/
def at_ (i : Word) (bs : List Byte) : State := (r0.setI i).storeBytes i.toNat bs

/-- One cell on. -/
def on (y : Fin 32) (x : Fin 64) (s : State) : State := s.setFb (s.fb.set y (s.fb[y].set x true))

theorem test_reset : r0.pc = 0x200 ∧ r0.mem.wf ∧ r0.readMem 0 = 0xF0 ∧ r0.readMem 79 = 0x80 ∧ r0.readMem 80 = 0 := by decide

theorem test_T1 : ok (run 0x0000 r0) (fun t => t.pc == 0x202) = true := by decide

theorem test_T3 : ok (run 0x5121 (v12 7 7)) (fun t => t.pc == 0x202) = true := by decide

theorem test_T8 : ok (run 0x6005 (r0.setPc 0xFFE)) (fun t => t.pc == 0x1000 && t.getV 0 == 5) = true := by decide

theorem test_T9 : ok (step (r0.setPc 0xFFF)) (fun t => t.fault == some (.addressFault 0xFFF 0x1000) && t.pc == 0xFFF) = true := by
  decide

theorem test_T10 : ok (step (r0.setPc 0x1000)) (fun t => t.fault == some (.addressFault 0x1000 0x1000)) = true := by decide

theorem test_T11 : ok (run 0x6A05 (r0.setPc 0x201)) (fun t => t.pc == 0x203 && t.getV 0xA == 5) = true := by decide

theorem test_T12 : ok (step ((r0.storeBytes 0x200 [0x60, 0x05]).raise (.stackUnderflow 0x200)))
    (fun t => t.getV 0 == 0 && t.pc == 0x200 && t.fault == some (.stackUnderflow 0x200)) = true := by decide

theorem test_A1 : ok (run 0x00E0 (on 31 63 (on 5 5 r0)))
    (fun t => !t.getFb 5 5 && !t.getFb 31 63 && t.pc == 0x202) = true := by decide

theorem test_A2 : ok (run 0x00EE (((r0.setSp 2).setStk 1 0x206).setStk 2 0x345))
    (fun t => t.pc == 0x345 && t.sp == 1 && t.getStk 2 == 0x345) = true := by decide

theorem test_A3 : ok (run 0x00EE r0) (fun t => t.fault == some (.stackUnderflow 0x200) && t.pc == 0x200 && t.sp == 0) = true := by
  decide

theorem test_A4 : ok (run 0x1ABC r0) (fun t => t.pc == 0xABC) = true := by decide

theorem test_A7 : ok (run 0x2300 ((r0.setPc 0x4FE).setSp 14))
    (fun t => t.sp == 15 && t.getStk 15 == 0x500 && t.pc == 0x300) = true := by decide

theorem test_A8 : ok (run 0x2300 (r0.setSp 15))
    (fun t => t.fault == some (.stackOverflow 0x200) && t.pc == 0x200 && t.sp == 15) = true := by decide

theorem test_A10 : ok (run 0xBFFF (r0.setV 0 0xFF)) (fun t => t.pc == 0x10FE &&
    ok (step t) fun u => u.fault == some (.addressFault 0x10FE 0x10FE)) = true := by decide

theorem test_A12 : ok (run 0x3A42 (r0.setV 0xA 0x42)) (fun t => t.pc == 0x204) = true := by decide

theorem test_A13 : ok (run 0x3A42 (r0.setV 0xA 0x43)) (fun t => t.pc == 0x202) = true := by decide

theorem test_A14 : ok (run 0x4A42 (r0.setV 0xA 0x42)) (fun t => t.pc == 0x202) = true := by decide

theorem test_A15 : ok (run 0x4A42 (r0.setV 0xA 0x43)) (fun t => t.pc == 0x204) = true := by decide

theorem test_A16 : ok (run 0x5120 (v12 9 9)) (fun t => t.pc == 0x204) = true := by decide

theorem test_A17 : ok (run 0x5120 (v12 9 8)) (fun t => t.pc == 0x202) = true := by decide

theorem test_A19 : ok (run 0x9120 (v12 9 9)) (fun t => t.pc == 0x202) = true := by decide

theorem test_A20 : ok (run 0x9120 (v12 9 8)) (fun t => t.pc == 0x204) = true := by decide

theorem test_B1 : ok (run 0x6C7F (r0.setV 0xC 1)) (fun t => t.getV 0xC == 0x7F) = true := by decide

theorem test_B4 : ok (run 0x7101 (v12 0xFF 0)) (fun t => t.getV 1 == 0 && t.getV 0xF == 0) = true := by decide

theorem test_B7 : ok (run 0x8120 (v12 0x01 0xAB)) (fun t => t.getV 1 == 0xAB && t.getV 2 == 0xAB) = true := by decide

theorem test_B8 : ok (run 0x8121 ((v12 0xF0 0x0F).setV 0xF 0x55)) (fun t => t.getV 1 == 0xFF && t.getV 0xF == 0x55) = true := by
  decide

theorem test_B9 : ok (run 0x8122 ((v12 0xF3 0x3F).setV 0xF 0x55)) (fun t => t.getV 1 == 0x33 && t.getV 0xF == 0x55) = true := by
  decide

theorem test_B10 : ok (run 0x8123 ((v12 0xFF 0x0F).setV 0xF 0x55)) (fun t => t.getV 1 == 0xF0 && t.getV 0xF == 0x55) = true := by
  decide

theorem test_B14 : ok (run 0x8124 (v12 0xFF 0x01)) (fun t => t.getV 1 == 0 && t.getV 0xF == 1) = true := by decide

theorem test_B18 : ok (run 0x8FF4 (r0.setV 0xF 0x90)) (fun t => t.getV 0xF == 0x20) = true := by decide

theorem test_B20 : ok (run 0x8125 (v12 3 5)) (fun t => t.getV 1 == 0xFE && t.getV 0xF == 0) = true := by decide

theorem test_B22 : ok (run 0x8F15 ((r0.setV 0xF 5).setV 1 3)) (fun t => t.getV 0xF == 2) = true := by decide

theorem test_B24 : ok (run 0x8127 (v12 3 5)) (fun t => t.getV 1 == 2 && t.getV 0xF == 1) = true := by decide

theorem test_B26 : ok (run 0x8127 (v12 7 7)) (fun t => t.getV 1 == 0 && t.getV 0xF == 1) = true := by decide

theorem test_B27 : ok (run 0x8126 (v12 0xFF 5)) (fun t => t.getV 1 == 2 && t.getV 0xF == 1 && t.getV 2 == 5) = true := by decide

theorem test_B31 : ok (run 0x81F6 (r0.setV 0xF 3)) (fun t => t.getV 1 == 1 && t.getV 0xF == 1) = true := by decide

theorem test_B32 : ok (run 0x812E (v12 0 0x81)) (fun t => t.getV 1 == 2 && t.getV 0xF == 1 && t.getV 2 == 0x81) = true := by decide

theorem test_B35 : ok (run 0x8F2E (v12 0 0xC0)) (fun t => t.getV 0xF == 0x80) = true := by decide

theorem test_B37 : ok (run 0xAFFF (r0.setI 5)) (fun t => t.i == 0xFFF && t.pc == 0x202) = true := by decide

/-- B38, for every draw. -/
theorem test_B38 : ∃ t, exec (.rnd 1 0x0F) r0 = .next t ∧ t.getV 1 = Config.rnd 0 &&& 0x0F ∧ t.pc = 0x202 ∧ t.draws = 1 :=
  ⟨_, rfl, rfl, rfl, rfl⟩

theorem test_D3 : ok (run 0xD011 ((at_ 0x300 [0xFF]).setV 0 60)) (fun t =>
    t.getFb 0 60 && t.getFb 0 63 && t.getFb 0 0 && t.getFb 0 3 && !t.getFb 0 4 && !t.getFb 0 59 && t.getV 0xF == 0) = true := by
  decide

theorem test_D7 : ok (run 0xD011 (on 0 1 (at_ 0x300 [0xC0]))) (fun t =>
    t.getFb 0 0 && !t.getFb 0 1 && t.getV 0xF == 1 && t.pc == 0x202) = true := by decide

theorem test_E1 : ok (run 0xE19E ((r0.setV 1 5).setKey (some 5))) (fun t => t.pc == 0x204) = true := by decide

theorem test_E4 : ok (run 0xE19E ((r0.setV 1 0x15).setKey (some 5))) (fun t => t.pc == 0x202) = true := by decide

theorem test_E6 : ok (run 0xE1A1 ((r0.setV 1 5).setKey (some 5))) (fun t => t.pc == 0x202) = true := by decide

theorem test_E8 : ok (run 0xE1A1 (r0.setV 1 5)) (fun t => t.pc == 0x204) = true := by decide

theorem test_E10 : ok (run 0xF30A (r0.setV 3 0x99)) (fun t => t.pc == 0x200 && t.getV 3 == 0x99) = true := by decide

theorem test_E12 : ok (run 0xF30A ((r0.setV 3 0x99).setKey (some 15))) (fun t =>
    t.pc == 0x202 && t.getV 3 == 0x0F && t.key == some 15) = true := by decide

theorem test_F1 : ok (run 0xF307 (r0.setDt 0x2A)) (fun t => t.getV 3 == 0x2A && t.dt == 0x2A) = true := by decide

theorem test_F3 : ok (run 0xF315 (r0.setV 3 0x3C)) (fun t => t.dt == 0x3C && t.st == 0) = true := by decide

theorem test_F5 : ok (run 0xF018 (r0.setV 0 5)) (fun t => t.st == 5 && t.tone && t.dt == 0) = true := by decide

theorem test_F8 : ok (run 0xF21E ((r0.setI 0xFFF).setV 2 1)) (fun t => t.i == 0x1000 && t.getV 0xF == 0) = true := by decide

theorem test_F9 : ok (run 0xF21E ((r0.setI 0xFFFF).setV 2 2)) (fun t => t.i == 1) = true := by decide

theorem test_F13 : ok (run 0xF129 (r0.setV 1 0x0F)) (fun t => t.i == 0x04B) = true := by decide

theorem test_F15 : ok (run 0xF129 (r0.setV 1 0xFF)) (fun t => t.i == 0x4FB) = true := by decide

theorem test_F16 : ok (run 0xF033 ((r0.setI 0x300).setV 0 234)) (fun t =>
    t.mem.readBytes 0x300 4 == [2, 3, 4, 0] && t.i == 0x300) = true := by decide

theorem test_F21 : ok (run 0xF033 ((r0.setI 0xFFE).setV 0 123)) (fun t =>
    t.fault == some (.addressFault 0x200 0x1000) && t.readMem 0xFFE == 0 && t.pc == 0x200) = true := by decide

theorem test_F23 : ok (run 0xF355 (((((r0.setI 0x400).setV 0 0x11).setV 1 0x22).setV 2 0x33).setV 3 0x44 |>.setV 4 0x55))
    (fun t => t.mem.readBytes 0x400 5 == [0x11, 0x22, 0x33, 0x44, 0x00] && t.i == 0x404) = true := by decide

theorem test_F27 : ok (run 0xF055 ((r0.setI 0xFFF).setV 0 1)) (fun t => t.readMem 0xFFF == 1 && t.i == 0x1000) = true := by decide

theorem test_F29 : ok (run 0xF265 ((at_ 0x300 [2, 3, 4, 5]).setV 3 0x77)) (fun t =>
    t.getV 0 == 2 && t.getV 1 == 3 && t.getV 2 == 4 && t.getV 3 == 0x77 && t.i == 0x303) = true := by decide

theorem test_F33 : ok (run 0xF165 (((r0.setI 0xFFF).setV 0 9).setV 1 9)) (fun t =>
    t.fault == some (.addressFault 0x200 0x1000) && t.getV 0 == 9 && t.getV 1 == 9) = true := by decide

/-! The other agents' operations (95_test_vectors.md 2.7). -/

theorem test_X1 : ok (perform .decDelay ((r0.setDt 2).setSt 1)) (fun t => t.dt == 1 && t.st == 1) = true := by decide

theorem test_X2 : ok (perform .decDelay ((r0.setDt 0).setSt 1)) (fun t => t.dt == 0 && t.st == 1) = true := by decide

theorem test_X3 : ok (performAll [.decSound, .decSound] (r0.setSt 1)) (fun t => t.st == 0 && !t.tone) = true := by decide

theorem test_X4 : ok (perform (.setKey (some 15)) r0) (fun t => t.key == some 15 &&
    ok (perform (.setKey none) t) fun u => u.key == none) = true := by decide

theorem test_X6 : r0.load (List.replicate 3585 0xAA) = r0.raise (.romTooLarge 3585) := by
  have h : maxProgram < (List.replicate 3585 (0xAA : Byte)).length := by rw [List.length_replicate]; decide
  unfold State.load
  rw [if_neg (by decide), if_pos h, List.length_replicate]

theorem test_X8 : ok (performAll [.load [0x12, 0x00], .load [0x60]] r0) (fun t =>
    t.mem.readBytes 0x200 2 == [0x60, 0x00] && t.pc == 0x200) = true := by decide

theorem test_X9 : ok (perform .reset ((((r0.setV 3 7).storeBytes 0x300 [9]).raise (.stackOverflow 0x200)).setKey (some 4)))
    (fun t => t.getV 3 == 0 && t.fault == none && t.readMem 0x300 == 0 && t.key == some 4) = true := by decide

theorem test_X11 : (r0.raise (.addressFault 0xFFF 0x1000)).load [0x12, 0x00] = r0.raise (.addressFault 0xFFF 0x1000) := by decide

theorem test_fault_codes : faultCode none = 0 ∧ faultCode (some (.romTooLarge 4000)) = 1 ∧
    faultCode (some (.stackOverflow 0x200)) = 2 ∧ faultCode (some (.stackUnderflow 0x200)) = 3 ∧
    faultCode (some (.addressFault 0x200 0x1000)) = 4 := by decide

/-! Witnesses: for each statement with hypotheses, concrete values that meet them all, at the boundary of each clause. -/

theorem witness_DecodeOfEncodeIsIdentity : WellFormed (.drw 0xF 0xF 0xF) ∧ WellFormed (.undef 0xFFFF) := by decide

theorem witness_DecoderIsTheOpcodeMap :
    (opcodeMap.any fun r => 0x8FFE &&& r.mask == r.pattern) = true ∧
    (opcodeMap.all fun r => 0x8FFF &&& r.mask != r.pattern) = true := by decide

theorem witness_FetchIsBigEndian : (r0.setPc 0xFFE).pc.toNat ≤ 0xFFE := by decide

theorem witness_StepRunsTheDecodedInstruction :
    (r0.setPc 0xFFE).fault = none ∧ (r0.setPc 0xFFE).pc.toNat ≤ 0xFFE ∧
    decodeBytes ((r0.setPc 0xFFE).mem.readBytes (r0.setPc 0xFFE).pc.toNat 2) = .ok (.undef 0, []) := by decide

theorem witness_FetchOutsideMemoryFaults : (r0.setPc 0xFFF).fault = none ∧ 0xFFF ≤ (r0.setPc 0xFFF).pc.toNat ∧
    0xFFF ≤ (r0.setPc 0xFFFF).pc.toNat := by decide

theorem witness_HaltedMachineDoesNothing : (r0.raise (.stackUnderflow 0x200)).fault ≠ none := by decide

theorem witness_FaultsAreExactlyTheListedOnes :
    r0.fault = none ∧ faultOf .ret r0 ≠ none ∧ faultOf (.call 0) (r0.setSp 15) ≠ none ∧
    faultOf (.drw 0 0 1) (r0.setI 0x1000) ≠ none ∧ faultOf (.drw 0 0 1) (r0.setI 0xFFF) = none ∧
    faultOf (.ldB 0) (r0.setI 0xFFE) ≠ none ∧ faultOf (.ldB 0) (r0.setI 0xFFD) = none ∧
    faultOf (.ldMemVx 15) (r0.setI 0xFF1) ≠ none ∧ faultOf (.ldVxMem 15) (r0.setI 0xFF0) = none := by decide

theorem witness_PcFollowsTheTable : faultOf .cls r0 = none ∧ faultOf .ret (r0.setSp 1) = none ∧
    faultOf (.call 0xFFF) (r0.setSp 14) = none := by decide

theorem witness_WritesFollowTheAccessMatrix : ∃ t,
    r0.mem.wf ∧ faultOf (.ldMemVx 15) (r0.setI 0xFF0) = none ∧ exec (.ldMemVx 15) (r0.setI 0xFF0) = .next t :=
  ⟨_, by decide, by decide, rfl⟩

theorem witness_OnlyInputInstructionsReadTheLatch : ∀ x, Instr.cls ≠ .skp x ∧ Instr.cls ≠ .sknp x ∧ Instr.cls ≠ .ldVxK x := by
  decide

theorem witness_TimersAreReadOnlyByFX07 : ∀ x, Instr.ldDtVx 3 ≠ .ldVxDt x := by decide

theorem witness_ReturnPopsTheStack : (r0.setSp 1).sp ≠ 0 ∧ (r0.setSp 15).sp ≠ 0 := by decide

theorem witness_CallPushesTheReturnAddress : r0.sp ≠ 15 ∧ (r0.setSp 14).sp ≠ 15 := by decide

theorem witness_StackLimitsFault : (r0.setSp 15).sp = 15 ∧ r0.sp = 0 := by decide

theorem witness_JumpSetsPc : (0x200 : Addr12).toNat = r0.pc.toNat ∧ r0.fault = none := by decide

theorem witness_JumpWithOffsetAddsV0 : 0xFFF ≤ (0xFFF : Addr12).toNat + (r0.getV 0).toNat ∧
    0xFFF ≤ (0xFFF : Addr12).toNat + ((r0.setV 0 0xFF).getV 0).toNat ∧ r0.fault = none := by decide

theorem witness_SkipsCompareTheLatch :
    (∃ k, (r0.setKey (some 0)).key = some k ∧ k.val = (r0.getV 1).toNat) ∧
    (¬ ∃ k, r0.key = some k ∧ k.val = (r0.getV 1).toNat) ∧
    (¬ ∃ k, ((r0.setV 1 0x10).setKey (some 0)).key = some k ∧ k.val = ((r0.setV 1 0x10).getV 1).toNat) := by decide

theorem witness_flag_statements : (0 : Reg) ≠ 0xF ∧ (14 : Reg) ≠ 0xF := by decide

theorem witness_DrawIsXorWithTheSpriteMask :
    ((0 : Nibble).toNat = 0 ∨ (r0.setI 0xFFFF).i.toNat + (0 : Nibble).toNat ≤ 0x1000) ∧
    ((1 : Nibble).toNat = 0 ∨ (r0.setI 0xFFF).i.toNat + (1 : Nibble).toNat ≤ 0x1000) ∧
    ((15 : Nibble).toNat = 0 ∨ (r0.setI 0xFF1).i.toNat + (15 : Nibble).toNat ≤ 0x1000) ∧
    (∀ row col, r0.getFb row col = false) := by decide

/-- The mask itself: the top left bit of the glyph at 0, and a bit that wraps to row 0 and column 0. -/
theorem witness_spriteCovers : spriteCovers r0 0 1 1 0 0 ∧ spriteCovers ((r0.setV 0 63).setV 1 28) 0 1 5 0 0 :=
  ⟨⟨0, 0, by decide, by decide, by decide, by decide, by decide⟩, ⟨4, 1, by decide, by decide, by decide, by decide, by decide⟩⟩

theorem witness_DrawCompletesAndFrames :
    (0 : Nibble).toNat = 0 ∨ (r0.setI 0x1234).i.toNat + (0 : Nibble).toNat ≤ 0x1000 := by decide

theorem witness_KeyWaitPollsTheLatch : r0.key = none ∧ (r0.setKey (some 15)).key = some 15 := by decide

theorem witness_DecimalDigitsAreStored : (r0.setI 0xFFD).mem.wf ∧ (r0.setI 0xFFD).i.toNat + 2 ≤ 0xFFF := by decide

theorem witness_RegistersAreStored : (r0.setI 0xFF0).mem.wf ∧ (r0.setI 0xFF0).i.toNat + (15 : Reg).val ≤ 0xFFF ∧
    (r0.setI 0xFFF).i.toNat + (0 : Reg).val ≤ 0xFFF := by decide

theorem witness_RegistersAreLoaded : (r0.setI 0xFF0).i.toNat + (15 : Reg).val ≤ 0xFFF := by decide

theorem witness_DataAddressFaultsArePrecise :
    (0 < (1 : Nibble).toNat ∧ 0x1000 < (r0.setI 0x1000).i.toNat + (1 : Nibble).toNat) ∧
    0xFFF < (r0.setI 0xFFE).i.toNat + 2 ∧ 0xFFF < (r0.setI 0xFF1).i.toNat + (15 : Reg).val ∧
    0xFFF < (r0.setI 0xFFFF).i.toNat + (0 : Reg).val := by decide

theorem witness_UndefinedWordIsANoOp : ∀ row ∈ opcodeMap, (0x01E0 : Word) &&& row.mask ≠ row.pattern := by decide

/-- `2300` at 0xFFE with one level left, `00EE` at 0x300. -/
def callReturnState : State :=
  (((r0.setPc 0xFFE).setSp 14).storeBytes 0xFFE [0x23, 0x00]).storeBytes 0x300 [0x00, 0xEE]

theorem witness_CallReturnRoundTrip :
    callReturnState.fault = none ∧ callReturnState.sp.val ≤ 14 ∧ callReturnState.pc.toNat ≤ 0xFFE ∧
    (0x300 : Addr12).toNat ≤ 0xFFE ∧ callReturnState.wordAt callReturnState.pc.toNat = encode (.call 0x300) ∧
    callReturnState.wordAt (0x300 : Addr12).toNat = encode .ret := by decide

theorem witness_StoreThenLoadRestoresRegisters : (r0.setI 0xFF0).mem.wf ∧ (r0.setI 0xFF0).i.toNat = (0xFF0 : Addr12).toNat ∧
    (0xFF0 : Addr12).toNat + (15 : Reg).val ≤ 0xFFF := by decide

theorem witness_StoredWordIsFetched : (r0.setPc 0xFFE).mem.wf ∧ (r0.setPc 0xFFE).pc.toNat ≤ 0xFFE := by decide

/-- The state of A5: a jump to itself at 0x200. -/
theorem witness_FinishedStateStays : Finished (r0.storeBytes 0x200 [0x12, 0x00]) := ⟨by decide, 0x200, by decide, by decide⟩

theorem witness_StepKeepsMemoryCanonical : r0.mem.wf ∧ ∃ t, step r0 = .next t := ⟨by decide, _, rfl⟩

theorem witness_StepKeepsPcBounded : PcBounded (r0.setPc 0x10FE) ∧ ∃ t, step (r0.setPc 0x10FE) = .next t :=
  ⟨⟨by decide, by decide⟩, _, rfl⟩

theorem witness_EveryScheduleKeepsTheInvariants : Inv r0 ∧ r0.getStk 0 = 0 ∧
    ∃ t, performAll [.load [0x12, 0x00], .decDelay, .setKey (some 3), .reset] r0 = .next t :=
  ⟨⟨by decide, by decide, by decide⟩, by decide, _, rfl⟩

theorem witness_StackCellZeroIsNeverWritten : Operation.reset ∉ [Operation.step, .load [0x12, 0x00], .decSound] ∧ r0.getStk 0 = 0 ∧
    ∃ t, performAll [.step, .load [0x12, 0x00], .decSound] r0 = .next t := ⟨by decide, by decide, _, rfl⟩

theorem witness_DelayTimerRisesOnlyByFX15 :
    ok (perform .step ((r0.setV 3 0x3C).withFetchWord 16 0xF315)) (fun t => decide (r0.dt.toNat < t.dt.toNat)) = true := by decide

theorem witness_FaultStaysUntilReset : ∃ t u,
    (r0.raise (.stackOverflow 0x200)).fault = some (.stackOverflow 0x200) ∧
    perform .reset (r0.raise (.stackOverflow 0x200)) = .next t ∧ perform .step (r0.raise (.stackOverflow 0x200)) = .next u :=
  ⟨_, _, rfl, rfl, rfl⟩

theorem witness_LoadPlacesTheBytes :
    r0.mem.wf ∧ r0.fault = none ∧ (r0.raise (.romTooLarge 3585)).fault ≠ none ∧
    (List.replicate 3584 (0xAA : Byte)).length ≤ 3584 ∧ 3584 < (List.replicate 3585 (0xAA : Byte)).length := by
  refine ⟨by decide, by decide, by decide, ?_, ?_⟩
  · rw [List.length_replicate]
  · rw [List.length_replicate]; decide

end Sys2Proof.Tests
end

/-! What an instruction can do to `PC`, the stack and memory, and the invariants that follow from it. -/

namespace Sys2Proof.Machine

/-- What one instruction can do to the pieces the invariants speak of: `PC`, the stack cells and memory. -/
inductive ExecEffect (s t : State) : Prop where
  /-- A fault, or `FX0A` with no key latched. -/
  | stay (hpc : t.pc = s.pc) (hstk : t.stk = s.stk) (hmem : t.mem = s.mem)
  /-- The normal advance (40_dispatch.md R104 (a)), with a memory store that fits the address space, the empty one included. -/
  | advance (a : Nat) (bs : List Byte) (hfit : a + bs.length ≤ memSize) (hpc : t.pc = s.pc + 2) (hstk : t.stk = s.stk)
      (hmem : t.mem = s.mem.writeBytes a bs)
  /-- A skip, taken or not (41_control_flow.md R130). -/
  | skip (c : Bool) (hpc : t.pc = (s.skipIf c).pc) (hstk : t.stk = s.stk) (hmem : t.mem = s.mem)
  /-- `1NNN` with `b = 0`, or `BNNN` (R122, R124). -/
  | jump (nnn : Addr12) (b : Byte) (hpc : t.pc = zext12 nnn + zext8 b) (hstk : t.stk = s.stk) (hmem : t.mem = s.mem)
  /-- `2NNN` with room on the stack (R123). -/
  | call (nnn : Addr12) (hsp : s.sp ≠ 15) (hpc : t.pc = zext12 nnn) (hstk : t.stk = (s.push (s.pc + 2)).stk)
      (hmem : t.mem = s.mem)
  /-- `00EE` with a value saved (R121). -/
  | ret (hsp : s.sp ≠ 0) (hpc : t.pc = s.top) (hstk : t.stk = s.stk) (hmem : t.mem = s.mem)

/-- A normal advance that stores nothing. -/
theorem ExecEffect.advance_only {s t : State} (hpc : t.pc = s.pc + 2) (hstk : t.stk = s.stk) (hmem : t.mem = s.mem) :
    ExecEffect s t :=
  .advance 0 [] (Nat.zero_le _) hpc hstk hmem

/-- A checked span faults, or has the effect of the state it answers when the span fits. -/
theorem withSpan_effect {s t : State} {a n : Nat} (h : n = 0 ∨ a + n ≤ memSize → ExecEffect s t) :
    ∃ u, withSpan s a n t = .next u ∧ ExecEffect s u := by
  by_cases hfit : n = 0 ∨ a + n ≤ memSize
  · exact ⟨t, by simp [withSpan, firstBadAddress_eq_none.mpr hfit], h hfit⟩
  · exact ⟨_, withSpan_of_over (by omega) (by omega), .stay rfl rfl rfl⟩

/-- Every instruction completes, with one of the effects listed. -/
theorem exec_effect (i : Instr) (s : State) : ∃ t, exec i s = .next t ∧ ExecEffect s t := by
  cases i with
  | jp nnn => exact ⟨_, rfl, .jump nnn 0 (by simp [zext8]) rfl rfl⟩
  | jpV0 nnn => exact ⟨_, rfl, .jump nnn (s.getV 0) rfl rfl rfl⟩
  | call nnn =>
    by_cases hsp : s.sp = 15
    · exact ⟨_, if_pos hsp, .stay rfl rfl rfl⟩
    · exact ⟨_, if_neg hsp, .call nnn hsp rfl rfl rfl⟩
  | ret =>
    by_cases hsp : s.sp = 0
    · exact ⟨_, if_pos hsp, .stay rfl rfl rfl⟩
    · exact ⟨_, if_neg hsp, .ret hsp rfl rfl rfl⟩
  | seImm | sneImm | seReg | sneReg | skp | sknp => exact ⟨_, rfl, .skip _ rfl rfl rfl⟩
  | ldVxK x =>
    cases hk : s.key with
    | none => exact ⟨s, by simp [exec, execLdVxK, hk], .stay rfl rfl rfl⟩
    | some k => exact ⟨(s.setV x (byteOfKey k)).advance, by simp [exec, execLdVxK, hk], .advance_only rfl rfl rfl⟩
  | drw | ldVxMem => exact withSpan_effect fun _ => .advance_only rfl rfl rfl
  | ldB x =>
    refine withSpan_effect fun hfit => .advance s.base (decimalDigits (s.getV x)) ?_ rfl rfl rfl
    rw [decimalDigits_length]
    omega
  | ldMemVx x =>
    refine withSpan_effect fun hfit => .advance s.base (s.lowRegs x) ?_ rfl rfl rfl
    rw [spanOfReg] at hfit
    rw [State.lowRegs_length]
    omega
  | cls | ldImm | addImm | ldReg | orReg | andReg | xorReg | addReg | subReg | shrReg | subnReg | shlReg | ldI | rnd
  | ldVxDt | ldDtVx | ldStVx | addI | ldF | undef => exact ⟨_, rfl, .advance_only rfl rfl rfl⟩

/-- The effect of an instruction whose answer is known. -/
theorem exec_next_effect {i : Instr} {s t : State} (h : exec i s = .next t) : ExecEffect s t := by
  obtain ⟨u, hu, he⟩ := exec_effect i s
  cases h.symm.trans hu
  exact he

/-- The three ways a step goes: nothing on a halted machine, the fault of a fetch outside memory, the fetched instruction
(40_dispatch.md R100 to R103). -/
theorem step_cases {s t : State} (h : step s = .next t) :
    (s.fault ≠ none ∧ t = s) ∨
    (s.fault = none ∧ 0xFFF ≤ s.pc.toNat ∧ t = s.raise (.addressFault s.pc (max s.pc.toNat 0x1000))) ∨
    (s.fault = none ∧ s.pc.toNat ≤ 0xFFE ∧ exec (decode (s.wordAt s.pc.toNat)) s = .next t) := by
  cases hf : s.fault with
  | some f =>
    simp only [step, hf, stepHalted, Host.Outcome.next.injEq] at h
    exact .inl ⟨nofun, h.symm⟩
  | none =>
    rcases Nat.lt_or_ge s.pc.toNat 0xFFF with hpc | hpc
    · simp only [step, hf, fetch_of_fits (Nat.le_of_lt_succ hpc)] at h
      exact .inr (.inr ⟨rfl, Nat.le_of_lt_succ hpc, h⟩)
    · simp only [step, hf, fetch_of_over hpc, takeFault, Host.Outcome.next.injEq] at h
      exact .inr (.inl ⟨rfl, hpc, h.symm⟩)

/-! Canonical memory. -/

theorem ExecEffect.keeps_wf {s t : State} (he : ExecEffect s t) (hm : s.mem.wf) : t.mem.wf := by
  cases he with
  | advance a bs hfit _ _ hmem => exact hmem ▸ Memory.wf_writeBytes hm bs hfit
  | stay _ _ hmem | skip _ _ _ hmem | jump _ _ _ _ hmem | call _ _ _ _ hmem | ret _ _ _ hmem => exact hmem ▸ hm

/-- Every step keeps memory in its canonical form. -/
theorem step_keeps_wf {s t : State} (hm : s.mem.wf) (h : step s = .next t) : t.mem.wf := by
  rcases step_cases h with ⟨-, rfl⟩ | ⟨-, -, rfl⟩ | ⟨-, -, hexec⟩
  · exact hm
  · exact hm
  · exact (exec_next_effect hexec).keeps_wf hm

/-! The bounds on `PC` and on the saved values. -/

/-- The bounds speak of `PC` and the stack alone. -/
theorem PcBounded.congr {s t : State} (hb : PcBounded s) (hpc : t.pc = s.pc) (hstk : t.stk = s.stk) : PcBounded t := by
  obtain ⟨hle, hsaved⟩ := hb
  refine ⟨hpc ▸ hle, fun k => ?_⟩
  rw [State.getStk, hstk]
  exact hsaved k

/-- A new `PC` within its bound keeps the bounds where the stack is unchanged. -/
theorem PcBounded.with_pc {s t : State} (hb : PcBounded s) (hpc : t.pc.toNat ≤ 0x10FE) (hstk : t.stk = s.stk) :
    PcBounded t :=
  ⟨hpc, (hb.congr (t := t.setPc s.pc) rfl hstk).2⟩

/-- From an address that can be fetched from, the advance leads at most just above the address space (10_state.md R25). -/
theorem toNat_add_two_le {w : Word} (h : w.toNat ≤ 0xFFE) : (w + 2).toNat ≤ 0x1000 := by
  bv_omega

/-- A skip leads at most two bytes further. -/
theorem skipIf_pc_le {s : State} (c : Bool) (h : s.pc.toNat ≤ 0xFFE) : (s.skipIf c).pc.toNat ≤ 0x1002 := by
  cases c <;> simp <;> bv_omega

/-- The push of a bounded value keeps the saved values bounded (41_control_flow.md R121, R123). -/
theorem getStk_push_le {s : State} {w : Word} (hs : ∀ k, (s.getStk k).toNat ≤ 0x1000) (hw : w.toNat ≤ 0x1000)
    (k : Fin 16) : ((s.push w).getStk k).toNat ≤ 0x1000 := by
  rw [State.getStk_push]
  split
  · exact hw
  · exact hs k

/-- An instruction fetched inside memory keeps the bounds. -/
theorem ExecEffect.keeps_pcBounded {s t : State} (he : ExecEffect s t) (hfetch : s.pc.toNat ≤ 0xFFE)
    (hb : PcBounded s) : PcBounded t := by
  have htwo := toNat_add_two_le hfetch
  cases he with
  | stay hpc hstk _ => exact hb.congr hpc hstk
  | advance _ _ _ hpc hstk _ => exact hb.with_pc (by rw [hpc]; omega) hstk
  | skip c hpc hstk _ =>
    have hskip := skipIf_pc_le c hfetch
    exact hb.with_pc (by rw [hpc]; omega) hstk
  | jump nnn b hpc hstk _ =>
    have hnnn := nnn.isLt
    have hbyte := b.isLt
    exact hb.with_pc (by rw [hpc, jumpSum_toNat]; omega) hstk
  | call nnn _ hpc hstk _ =>
    have hnnn := nnn.isLt
    have hpush : PcBounded (s.push (s.pc + 2)) := ⟨hb.1, getStk_push_le hb.2 htwo⟩
    exact hpush.with_pc (by rw [hpc, zext12_toNat]; omega) hstk
  | ret _ hpc hstk _ =>
    have hsaved : s.top.toNat ≤ 0x1000 := hb.2 s.sp
    exact hb.with_pc (by rw [hpc]; omega) hstk

/-- Every step keeps the bounds. -/
theorem step_keeps_pcBounded {s t : State} (hb : PcBounded s) (h : step s = .next t) : PcBounded t := by
  rcases step_cases h with ⟨-, rfl⟩ | ⟨-, -, rfl⟩ | ⟨-, hfetch, hexec⟩
  · exact hb
  · exact hb.congr rfl rfl
  · exact (exec_next_effect hexec).keeps_pcBounded hfetch hb

/-! The other agents' operations, and schedules. -/

/-- The invariants speak of memory, `PC` and the stack alone. -/
theorem Inv.congr {s t : State} (hi : Inv s) (hmem : t.mem = s.mem) (hpc : t.pc = s.pc) (hstk : t.stk = s.stk) : Inv t :=
  ⟨hmem ▸ hi.1, hi.2.congr hpc hstk⟩

/-- The reset state meets the invariants (10_state.md R37). -/
theorem inv_reset : Inv State.reset :=
  ⟨⟨List.Pairwise.nil, nofun⟩, by decide, by decide⟩

/-- A program that is accepted fits the address space (70_reset_and_hazards.md R243). -/
theorem inv_load {s : State} (hi : Inv s) (bytes : List Byte) : Inv (s.load bytes) := by
  unfold State.load
  split
  · exact hi
  · split
    · exact hi.congr rfl rfl rfl
    · next hlen =>
      have hfit : programBase + bytes.length ≤ memSize := by
        simp only [maxProgram, memSize, programBase] at hlen ⊢
        omega
      exact ⟨Memory.wf_writeBytes hi.1 bytes hfit, hi.2.congr rfl rfl⟩

/-- Every operation of every agent keeps the invariants. -/
theorem perform_keeps_inv {op : Operation} {s t : State} (hi : Inv s) (h : perform op s = .next t) : Inv t := by
  cases op with
  | step => exact ⟨step_keeps_wf hi.1 h, step_keeps_pcBounded hi.2 h⟩
  | reset => cases h; exact inv_reset.congr rfl rfl rfl
  | load bytes => cases h; exact inv_load hi bytes
  | decDelay | decSound | setKey => cases h; exact hi.congr rfl rfl rfl

/-- What every operation keeps holds after every schedule (00_scope.md R14). -/
theorem performAll_keeps {P : State → Prop} (hop : ∀ {op s t}, P s → perform op s = .next t → P t)
    {ops : List Operation} {s t : State} (hs : P s) (h : performAll ops s = .next t) : P t := by
  induction ops generalizing s with
  | nil => cases h; exact hs
  | cons op ops ih =>
    cases hperf : perform op s with
    | next u =>
      simp only [performAll, hperf] at h
      exact ih (hop hs hperf) h
    | fault f => simp [performAll, hperf] at h
    | refused r => simp [performAll, hperf] at h

/-- Settles O51: each operation keeps the invariants, so a schedule does, by induction on its operations. -/
theorem everyScheduleKeepsTheInvariants : Obligations.EveryScheduleKeepsTheInvariants := by
  unfold Obligations.EveryScheduleKeepsTheInvariants
  exact fun _ _ _ hs h => performAll_keeps perform_keeps_inv hs h

end Sys2Proof.Machine

/-! The bounds on `PC` at every step, and the invariants at power-on. -/

namespace Sys2Proof.Machine

/-- Settles O50: a halted step and a fetch fault leave `PC` and the stack, and each effect of a fetched instruction keeps the
bounds. -/
theorem stepKeepsPcBounded : Obligations.StepKeepsPcBounded := by
  unfold Obligations.StepKeepsPcBounded
  exact fun _ _ hb h => step_keeps_pcBounded hb h

/-- Settles O52: the state at power-on is the reset state but for the latch, of which the invariants don't speak. -/
theorem powerOnMeetsTheInvariants : Obligations.PowerOnMeetsTheInvariants := by
  unfold Obligations.PowerOnMeetsTheInvariants
  exact fun _ => inv_reset.congr rfl rfl rfl

end Sys2Proof.Machine

/-! The instructions that can fault, where they don't: what they answer. -/

namespace Sys2Proof.Machine

/-- A span that is empty or fits passes the check. -/
theorem withSpan_of_ok {s t : State} {a n : Nat} (h : n = 0 ∨ a + n ≤ memSize) : withSpan s a n t = .next t := by
  simp [withSpan, firstBadAddress_eq_none.mpr h]

theorem exec_ret_of_faultOf_none {s : State} (h : faultOf .ret s = none) : exec .ret s = .next (s.pop.setPc s.top) :=
  if_neg (by simpa [faultOf] using h)

theorem exec_call_of_faultOf_none {nnn : Addr12} {s : State} (h : faultOf (.call nnn) s = none) :
    exec (.call nnn) s = .next ((s.push (s.pc + 2)).setPc (zext12 nnn)) :=
  if_neg (by simpa [faultOf] using h)

theorem exec_drw_of_faultOf_none {x y : Reg} {n : Nibble} {s : State} (h : faultOf (.drw x y n) s = none) :
    exec (.drw x y n) s =
      .next ((s.setFlag (s.rasterAfter x y n).hit).setFb (s.rasterAfter x y n).fb).advance := by
  have hfit : ¬ (0 < n.toNat ∧ 0xFFF < s.i.toNat + n.toNat - 1) := fun hover => by simp [faultOf, hover] at h
  exact withSpan_of_ok (by simp only [State.base, memSize]; omega)

theorem exec_ldB_of_faultOf_none {x : Reg} {s : State} (h : faultOf (.ldB x) s = none) :
    exec (.ldB x) s = .next (s.storeBytes s.base (decimalDigits (s.getV x))).advance := by
  have hfit : ¬ 0xFFF < s.i.toNat + 2 := fun hover => by simp [faultOf, hover] at h
  exact withSpan_of_ok (by simp only [State.base, memSize]; omega)

theorem exec_ldMemVx_of_faultOf_none {x : Reg} {s : State} (h : faultOf (.ldMemVx x) s = none) :
    exec (.ldMemVx x) s = .next ((s.storeBytes s.base (s.lowRegs x)).advanceI x).advance := by
  have hfit : ¬ 0xFFF < s.i.toNat + x.val := fun hover => by simp [faultOf, hover] at h
  exact withSpan_of_ok (by simp only [State.base, spanOfReg, memSize]; omega)

theorem exec_ldVxMem_of_faultOf_none {x : Reg} {s : State} (h : faultOf (.ldVxMem x) s = none) :
    exec (.ldVxMem x) s = .next ((s.setLowRegs x fun r => s.readMem (s.base + r)).advanceI x).advance := by
  have hfit : ¬ 0xFFF < s.i.toNat + x.val := fun hover => by simp [faultOf, hover] at h
  exact withSpan_of_ok (by simp only [State.base, spanOfReg, memSize]; omega)

/-! The two ways of `FX0A` (44_input.md R172). -/

theorem exec_ldVxK_of_none {x : Reg} {s : State} (hk : s.key = none) : exec (.ldVxK x) s = .next s := by
  simp [exec, execLdVxK, hk]

theorem exec_ldVxK_of_some {x : Reg} {s : State} {k : Key} (hk : s.key = some k) :
    exec (.ldVxK x) s = .next (s.setV x (byteOfKey k)).advance := by
  simp [exec, execLdVxK, hk]

/-! Where each instruction leaves `PC`. -/

/-- The normal advance on unbounded integers (40_dispatch.md R104 (a)). -/
theorem State.advance_pc_toNat (s : State) : s.advance.pc.toNat = (s.pc.toNat + 2) % 65536 :=
  BitVec.toNat_add ..

/-- A skip on unbounded integers, its condition as a proposition (41_control_flow.md R130). -/
theorem State.skipIf_pc_toNat (s : State) {c : Bool} {p : Prop} [Decidable p] (h : c = true ↔ p) :
    (s.skipIf c).pc.toNat = if decide p then (s.pc.toNat + 4) % 65536 else (s.pc.toNat + 2) % 65536 := by
  by_cases hp : p
  · simp [hp, h.mpr hp]
  · simp [hp, mt h.mp hp]

/-- Settles O12: the jumps, the stack forms, the skips and the key wait one by one; every other instruction ends in the
normal advance. -/
theorem pcFollowsTheTable : Obligations.PcFollowsTheTable := by
  unfold Obligations.PcFollowsTheTable
  intro i s hf
  cases i with
  | jp nnn => exact ⟨_, rfl, zext12_toNat nnn⟩
  | jpV0 nnn => exact ⟨_, rfl, jumpSum_toNat nnn (s.getV 0)⟩
  | call nnn => exact ⟨_, exec_call_of_faultOf_none hf, zext12_toNat nnn⟩
  | ret => exact ⟨_, exec_ret_of_faultOf_none hf, rfl⟩
  | seImm | seReg => exact ⟨_, rfl, s.skipIf_pc_toNat beq_iff_eq⟩
  | sneImm | sneReg => exact ⟨_, rfl, s.skipIf_pc_toNat bne_iff_ne⟩
  | skp x => exact ⟨_, rfl, s.skipIf_pc_toNat keyIs_iff⟩
  | sknp x => exact ⟨_, rfl, s.skipIf_pc_toNat (by rw [Bool.not_eq_true', ← Bool.not_eq_true, keyIs_iff])⟩
  | ldVxK x =>
    cases hk : s.key with
    | none => exact ⟨_, exec_ldVxK_of_none hk, by simp [pcAfter, hk]⟩
    | some k => exact ⟨_, exec_ldVxK_of_some hk, by simp [pcAfter, hk]⟩
  | drw => exact ⟨_, exec_drw_of_faultOf_none hf, State.advance_pc_toNat _⟩
  | ldB => exact ⟨_, exec_ldB_of_faultOf_none hf, State.advance_pc_toNat _⟩
  | ldMemVx => exact ⟨_, exec_ldMemVx_of_faultOf_none hf, State.advance_pc_toNat _⟩
  | ldVxMem => exact ⟨_, exec_ldVxMem_of_faultOf_none hf, by simp [pcAfter]⟩
  | cls | ldImm | addImm | ldReg | orReg | andReg | xorReg | addReg | subReg | shrReg | subnReg | shlReg | ldI | rnd
  | ldVxDt | ldDtVx | ldStVx | addI | ldF | undef => exact ⟨_, rfl, State.advance_pc_toNat _⟩

end Sys2Proof.Machine

/-! Frames: what each update of the state touches, and the access matrix. -/

namespace Sys2Proof.Machine

section Frames

variable {s t : State} {P : Element → Prop}

theorem OnlyTouches.refl : OnlyTouches s s P := by
  intro e _
  cases e <;> rfl

theorem Same.trans {u : State} {e : Element} (h : Same s t e) (h' : Same t u e) : Same s u e := by
  cases e <;> exact Eq.trans h' h

/-- A frame followed by one more update that touches only what the frame allows. -/
theorem OnlyTouches.trans {u : State} (h : OnlyTouches s t P) (h' : OnlyTouches t u P) : OnlyTouches s u P :=
  fun e he => (h e he).trans (h' e he)

theorem OnlyTouches.setPc {w : Word} (h : OnlyTouches s t P) (hp : P .pc) : OnlyTouches s (t.setPc w) P := by
  refine h.trans fun e he => ?_
  cases e with
  | pc => exact absurd hp he
  | _ => rfl

theorem OnlyTouches.setV {x : Reg} {b : Byte} (h : OnlyTouches s t P) (hp : P (.v x)) :
    OnlyTouches s (t.setV x b) P := by
  refine h.trans fun e he => ?_
  cases e with
  | v r =>
    have hr : r ≠ x := fun hr => he (hr ▸ hp)
    simp [Same, hr]
  | _ => rfl

theorem OnlyTouches.setLowRegs {x : Reg} {f : Nat → Byte} (h : OnlyTouches s t P) (hp : ∀ r ≤ x, P (.v r)) :
    OnlyTouches s (t.setLowRegs x f) P := by
  refine h.trans fun e he => ?_
  cases e with
  | v r =>
    have hr : ¬ r ≤ x := fun hr => he (hp r hr)
    simp [Same, hr]
  | _ => simp [Same]

theorem OnlyTouches.setI {w : Word} (h : OnlyTouches s t P) (hp : P .i) : OnlyTouches s (t.setI w) P := by
  refine h.trans fun e he => ?_
  cases e with
  | i => exact absurd hp he
  | _ => rfl

theorem OnlyTouches.setDt {b : Byte} (h : OnlyTouches s t P) (hp : P .dt) : OnlyTouches s (t.setDt b) P := by
  refine h.trans fun e he => ?_
  cases e with
  | dt => exact absurd hp he
  | _ => rfl

theorem OnlyTouches.setSt {b : Byte} (h : OnlyTouches s t P) (hp : P .st) : OnlyTouches s (t.setSt b) P := by
  refine h.trans fun e he => ?_
  cases e with
  | st => exact absurd hp he
  | _ => rfl

theorem OnlyTouches.setSp {k : Fin 16} (h : OnlyTouches s t P) (hp : P .sp) : OnlyTouches s (t.setSp k) P := by
  refine h.trans fun e he => ?_
  cases e with
  | sp => exact absurd hp he
  | _ => rfl

theorem OnlyTouches.setStk {k : Fin 16} {w : Word} (h : OnlyTouches s t P) (hp : P (.stk k)) :
    OnlyTouches s (t.setStk k w) P := by
  refine h.trans fun e he => ?_
  cases e with
  | stk k' =>
    have hk : k' ≠ k := fun hk => he (hk ▸ hp)
    simp [Same, hk]
  | _ => rfl

theorem OnlyTouches.setFb {f : Framebuffer} (h : OnlyTouches s t P) (hp : ∀ y x, P (.fb y x)) :
    OnlyTouches s (t.setFb f) P := by
  refine h.trans fun e he => ?_
  cases e with
  | fb y x => exact absurd (hp y x) he
  | _ => rfl

theorem OnlyTouches.drawn (h : OnlyTouches s t P) (hp : P .draws) : OnlyTouches s t.drawn P := by
  refine h.trans fun e he => ?_
  cases e with
  | draws => exact absurd hp he
  | _ => rfl

/-- A store into canonical memory touches the bytes of its span. -/
theorem OnlyTouches.storeBytes {a : Nat} {bs : List Byte} (h : OnlyTouches s t P) (hm : t.mem.wf)
    (hp : ∀ k < bs.length, P (.mem (a + k))) : OnlyTouches s (t.storeBytes a bs) P := by
  refine h.trans fun e he => ?_
  cases e with
  | mem a' =>
    have hout : ¬ (a ≤ a' ∧ a' < a + bs.length) := by
      rintro ⟨hle, hlt⟩
      obtain ⟨k, rfl⟩ := Nat.exists_eq_add_of_le hle
      exact he (hp k (by omega))
    simp [Same, State.readMem_storeBytes t hm, hout]
  | _ => rfl

end Frames

/-- `PC` is written by every instruction (10_state.md R25). -/
theorem mayWrite_pc (i : Instr) (s : State) : mayWrite i s .pc := .inl rfl

/-- What an instruction that does not fault answers, in its frame. -/
theorem exec_onlyTouches (i : Instr) (s : State) (hm : s.mem.wf) (hf : faultOf i s = none) :
    ∃ t, exec i s = .next t ∧ OnlyTouches s t (mayWrite i s) := by
  have hpc := mayWrite_pc i s
  cases i with
  | cls => exact ⟨_, rfl, (OnlyTouches.refl.setFb fun y x => .inr ⟨y, x, rfl⟩).setPc hpc⟩
  | ret => exact ⟨_, exec_ret_of_faultOf_none hf, (OnlyTouches.refl.setSp (.inr rfl)).setPc hpc⟩
  | call nnn =>
    exact ⟨_, exec_call_of_faultOf_none hf,
      ((OnlyTouches.refl.setSp (.inr (.inl rfl))).setStk (.inr (.inr rfl))).setPc hpc⟩
  | jp | jpV0 | seImm | sneImm | seReg | sneReg | skp | sknp | undef => exact ⟨_, rfl, OnlyTouches.refl.setPc hpc⟩
  | ldImm | addImm | ldReg | orReg | andReg | xorReg | ldVxDt =>
    exact ⟨_, rfl, (OnlyTouches.refl.setV (.inr rfl)).setPc hpc⟩
  | addReg | subReg | shrReg | subnReg | shlReg =>
    exact ⟨_, rfl, ((OnlyTouches.refl.setV (.inr (.inr rfl))).setV (.inr (.inl rfl))).setPc hpc⟩
  | ldI | addI | ldF => exact ⟨_, rfl, (OnlyTouches.refl.setI (.inr rfl)).setPc hpc⟩
  | rnd => exact ⟨_, rfl, ((OnlyTouches.refl.drawn (.inr (.inr rfl))).setV (.inr (.inl rfl))).setPc hpc⟩
  | ldDtVx => exact ⟨_, rfl, (OnlyTouches.refl.setDt (.inr rfl)).setPc hpc⟩
  | ldStVx => exact ⟨_, rfl, (OnlyTouches.refl.setSt (.inr rfl)).setPc hpc⟩
  | drw x y n =>
    exact ⟨_, exec_drw_of_faultOf_none hf,
      ((OnlyTouches.refl.setV (.inr (.inl rfl))).setFb fun y x => .inr (.inr ⟨y, x, rfl⟩)).setPc hpc⟩
  | ldVxK x =>
    cases hk : s.key with
    | none => exact ⟨_, exec_ldVxK_of_none hk, .refl⟩
    | some k => exact ⟨_, exec_ldVxK_of_some hk, (OnlyTouches.refl.setV (.inr rfl)).setPc hpc⟩
  | ldB x =>
    exact ⟨_, exec_ldB_of_faultOf_none hf, (OnlyTouches.refl.storeBytes hm fun k hk => .inr ⟨k, hk, rfl⟩).setPc hpc⟩
  | ldMemVx x =>
    have hstore : ∀ k < (s.lowRegs x).length, mayWrite (.ldMemVx x) s (.mem (s.base + k)) := fun k hk =>
      .inr (.inr ⟨k, by simpa [Nat.lt_succ_iff] using hk, rfl⟩)
    exact ⟨_, exec_ldMemVx_of_faultOf_none hf,
      ((OnlyTouches.refl.storeBytes hm hstore).setI (.inr (.inl rfl))).setPc hpc⟩
  | ldVxMem x =>
    exact ⟨_, exec_ldVxMem_of_faultOf_none hf,
      ((OnlyTouches.refl.setLowRegs fun r hr => .inr (.inr ⟨r, hr, rfl⟩)).setI (.inr (.inl rfl))).setPc hpc⟩

/-- Settles O13: the frame of each instruction, composed of the frames of the updates it makes. -/
theorem writesFollowTheAccessMatrix : Obligations.WritesFollowTheAccessMatrix := by
  unfold Obligations.WritesFollowTheAccessMatrix
  intro i s t hm hf h
  obtain ⟨u, hu, hframe⟩ := exec_onlyTouches i s hm hf
  cases h.symm.trans hu
  exact hframe

end Sys2Proof.Machine

/-! The timers: what reads them. -/

namespace Sys2Proof.Machine

/-- The two timers (10_state.md R30, R31). -/
inductive Timer where
  | delay
  | sound

/-- `DT <- b` or `ST <- b`. -/
def State.setTimer : Timer → State → Byte → State
  | .delay, s, b => s.setDt b
  | .sound, s, b => s.setSt b

@[simp] theorem State.setTimer_key (tm : Timer) (s : State) (b : Byte) : (State.setTimer tm s b).key = s.key := by
  cases tm <;> rfl

/-- Two checked spans with one answer of the check agree up to `f` where their two results do. -/
theorem mapState_withSpan_congr {f : State → State} {s s' t t' : State} {a n : Nat} (hpc : s'.pc = s.pc)
    (hraise : ∀ flt, f (s'.raise flt) = f (s.raise flt)) (ht : f t' = f t) :
    Result.mapState f (withSpan s' a n t') = Result.mapState f (withSpan s a n t) := by
  unfold withSpan
  rw [hpc]
  cases firstBadAddress a n with
  | none => exact congrArg Host.Outcome.next ht
  | some bad => exact congrArg Host.Outcome.next (hraise _)

/-- Two answers with one fault check agree up to `f` where the faults and the results do. -/
theorem mapState_ite_congr {f : State → State} {s s' t t' : State} {flt : Fault} {p : Prop} [Decidable p]
    (hraise : f (s'.raise flt) = f (s.raise flt)) (ht : f t' = f t) :
    Result.mapState f (if p then takeFault flt s' else .next t') =
      Result.mapState f (if p then takeFault flt s else .next t) := by
  split
  · exact congrArg Host.Outcome.next hraise
  · exact congrArg Host.Outcome.next ht

/-- Outside a timer, an instruction does not depend on it, but for `FX07` and `DT` (10_state.md R40). -/
theorem exec_setTimer (tm : Timer) (i : Instr) (s : State) (b c : Byte) (h : tm = .delay → ∀ x, i ≠ .ldVxDt x) :
    Result.mapState (State.setTimer tm · c) (exec i (State.setTimer tm s b)) =
      Result.mapState (State.setTimer tm · c) (exec i s) := by
  cases i with
  | ldVxDt x =>
    cases tm with
    | delay => exact absurd rfl (h rfl x)
    | sound => rfl
  | ret | call => cases tm <;> exact mapState_ite_congr rfl rfl
  | drw | ldB | ldMemVx | ldVxMem => cases tm <;> exact mapState_withSpan_congr rfl (fun _ => rfl) rfl
  | ldVxK x =>
    have hkey := State.setTimer_key tm s b
    cases hk : s.key with
    | none =>
      rw [exec_ldVxK_of_none hk, exec_ldVxK_of_none (hkey.trans hk)]
      cases tm <;> rfl
    | some k =>
      rw [exec_ldVxK_of_some hk, exec_ldVxK_of_some (hkey.trans hk)]
      cases tm <;> rfl
  | _ => cases tm <;> rfl

/-- Settles O15: outside either timer an instruction does not depend on it, `FX07` and `DT` excepted. -/
theorem timersAreReadOnlyByFX07 : Obligations.TimersAreReadOnlyByFX07 := by
  unfold Obligations.TimersAreReadOnlyByFX07
  exact fun i s b c => ⟨exec_setTimer .sound i s b c nofun, fun h => exec_setTimer .delay i s b c fun _ => h⟩

end Sys2Proof.Machine

/-! What stays along a schedule: `STK[0]` and the fault. -/

namespace Sys2Proof.Machine

@[simp] theorem State.getStk_applyReset (s : State) (k : Fin 16) : s.applyReset.getStk k = 0 := by
  simp [State.applyReset, State.reset, State.getStk]

/-- The loader never reaches the stack (10_state.md R27). -/
@[simp] theorem State.load_stk (s : State) (bytes : List Byte) : (s.load bytes).stk = s.stk := by
  unfold State.load
  split
  · rfl
  · split <;> rfl

/-- A halted machine refuses a program (70_reset_and_hazards.md R243). -/
theorem State.load_of_fault {s : State} {f : Fault} (hf : s.fault = some f) (bytes : List Byte) : s.load bytes = s := by
  simp [State.load, hf]

/-- A halted machine's step changes nothing (40_dispatch.md R100). -/
theorem step_of_fault {s : State} {f : Fault} (hf : s.fault = some f) : step s = .next s := by
  simp [step, hf, stepHalted]

/-- An instruction never writes `STK[0]`: a push writes cell `SP + 1`, which is 0 only with `SP = 15`, where it faults. -/
theorem ExecEffect.getStk_zero {s t : State} (he : ExecEffect s t) : t.getStk 0 = s.getStk 0 := by
  cases he with
  | call nnn hsp _ hstk _ =>
    have hne : (0 : Fin 16) ≠ s.sp + 1 := by
      generalize s.sp = k at hsp
      revert k
      decide
    calc t.getStk 0 = (s.push (s.pc + 2)).getStk 0 := by rw [State.getStk, hstk, State.getStk]
      _ = s.getStk 0 := by simp [hne]
  | stay _ hstk _ | advance _ _ _ _ hstk _ | skip _ _ hstk _ | jump _ _ _ hstk _ | ret _ _ hstk _ =>
    rw [State.getStk, hstk, State.getStk]

theorem step_getStk_zero {s t : State} (h : step s = .next t) : t.getStk 0 = s.getStk 0 := by
  rcases step_cases h with ⟨-, rfl⟩ | ⟨-, -, rfl⟩ | ⟨-, -, hexec⟩
  · rfl
  · rfl
  · exact (exec_next_effect hexec).getStk_zero

/-- An operation either leaves `STK[0]` as it was or is the reset, which leaves 0 (decision D6). -/
theorem perform_getStk_zero {op : Operation} {s t : State} (h : perform op s = .next t) :
    t.getStk 0 = s.getStk 0 ∨ op = .reset ∧ t.getStk 0 = 0 := by
  cases op with
  | step => exact .inl (step_getStk_zero h)
  | reset => cases h; exact .inr ⟨rfl, s.getStk_applyReset 0⟩
  | load bytes => cases h; exact .inl (by rw [State.getStk, State.load_stk, State.getStk])
  | decDelay | decSound | setKey => cases h; exact .inl rfl

/-- A schedule that goes through is its first operation and then the rest. -/
theorem performAll_cons_next {op : Operation} {ops : List Operation} {s t : State}
    (h : performAll (op :: ops) s = .next t) : ∃ u, perform op s = .next u ∧ performAll ops u = .next t := by
  cases hperf : perform op s with
  | next u => exact ⟨u, rfl, by simpa [performAll, hperf] using h⟩
  | fault f => simp [performAll, hperf] at h
  | refused r => simp [performAll, hperf] at h

/-- Without a reset, `STK[0]` is never written. -/
theorem performAll_getStk_zero {ops : List Operation} {s t : State} (hr : .reset ∉ ops)
    (h : performAll ops s = .next t) : t.getStk 0 = s.getStk 0 := by
  induction ops generalizing s with
  | nil => cases h; rfl
  | cons op ops ih =>
    obtain ⟨hop, hops⟩ := List.ne_and_not_mem_of_not_mem_cons hr
    obtain ⟨u, hu, h⟩ := performAll_cons_next h
    rcases perform_getStk_zero hu with hkeep | ⟨rfl, -⟩
    · rw [ih hops h, hkeep]
    · exact absurd rfl hop

/-- Settles O53: each operation but reset leaves `STK[0]`, and reset leaves it 0. -/
theorem stackCellZeroIsNeverWritten : Obligations.StackCellZeroIsNeverWritten := by
  unfold Obligations.StackCellZeroIsNeverWritten
  refine fun ops s t h => ⟨fun hr => performAll_getStk_zero hr h, fun h0 => ?_⟩
  refine performAll_keeps (P := fun u => u.getStk 0 = 0) (fun hs hop => ?_) h0 h
  rcases perform_getStk_zero hop with hkeep | ⟨-, hzero⟩
  · exact hkeep.trans hs
  · exact hzero

/-- Settles O55: on a halted machine a step and a load do nothing, the tick driver and the latch do not reach `FAULT`, and
reset clears it. -/
theorem faultStaysUntilReset : Obligations.FaultStaysUntilReset := by
  unfold Obligations.FaultStaysUntilReset
  intro op s t f hf h
  cases op with
  | reset => cases h; exact ⟨fun hne => absurd rfl hne, fun _ => rfl⟩
  | step =>
    cases h.symm.trans (step_of_fault hf)
    exact ⟨fun _ => hf, nofun⟩
  | load bytes =>
    cases h
    exact ⟨fun _ => by rw [State.load_of_fault hf, hf], nofun⟩
  | decDelay | decSound | setKey => cases h; exact ⟨fun _ => hf, nofun⟩

end Sys2Proof.Machine

/-! The fields of a word made of two bytes (20_memory.md R55). -/

namespace Sys2Proof

theorem fieldFamily_wordOfBytes (hi lo : Byte) : (fieldFamily (wordOfBytes hi lo)).toNat = hi.toNat / 16 := by
  have := lo.isLt
  rw [fieldFamily_toNat, wordOfBytes_toNat]
  omega

theorem fieldX_wordOfBytes (hi lo : Byte) : (fieldX (wordOfBytes hi lo)).val = hi.toNat % 16 := by
  have := lo.isLt
  rw [fieldX_val, wordOfBytes_toNat]
  omega

theorem fieldY_wordOfBytes (hi lo : Byte) : (fieldY (wordOfBytes hi lo)).val = lo.toNat / 16 := by
  have := lo.isLt
  rw [fieldY_val, wordOfBytes_toNat]
  omega

theorem fieldN_wordOfBytes (hi lo : Byte) : (fieldN (wordOfBytes hi lo)).toNat = lo.toNat % 16 := by
  rw [fieldN_toNat, wordOfBytes_toNat]
  omega

@[simp] theorem fieldNN_wordOfBytes (hi lo : Byte) : fieldNN (wordOfBytes hi lo) = lo := by
  have := lo.isLt
  apply BitVec.eq_of_toNat_eq
  rw [fieldNN_toNat, wordOfBytes_toNat]
  omega

end Sys2Proof

/-! Memory: its canonical form at every step, the byte order of the fetch, and a store seen by the fetch. -/

namespace Sys2Proof.Machine

/-- Settles O49: a halted step and a fetch fault leave memory, and each effect of a fetched instruction stores, if anything,
a span that fits the 4096 cells. -/
theorem stepKeepsMemoryCanonical : Obligations.StepKeepsMemoryCanonical := by
  unfold Obligations.StepKeepsMemoryCanonical
  exact fun _ _ hm h => step_keeps_wf hm h

/-- Settles O6: inside memory the fetch answers the word of the two bytes at `PC`, whose fields are digits of its bytes. -/
theorem fetchIsBigEndian : Obligations.FetchIsBigEndian := by
  unfold Obligations.FetchIsBigEndian
  exact fun _ hpc => ⟨_, fetch_of_fits hpc, wordOfBytes_toNat .., fieldFamily_wordOfBytes .., fieldX_wordOfBytes ..,
    fieldY_wordOfBytes .., fieldN_wordOfBytes .., fieldNN_wordOfBytes ..⟩

/-- The two bytes of a word, stored in canonical memory, are read back as that word. -/
theorem State.wordAt_storeBytes {s : State} (hm : s.mem.wf) (a : Nat) (w : Word) :
    (s.storeBytes a (bytesOfWord w)).wordAt a = w := by
  have hhi : (s.storeBytes a (bytesOfWord w)).readMem a = w.extractLsb' 8 8 := by
    simp [s.readMem_storeBytes hm, bytesOfWord]
  have hlo : (s.storeBytes a (bytesOfWord w)).readMem (a + 1) = w.extractLsb' 0 8 := by
    simp [s.readMem_storeBytes hm, bytesOfWord]
  rw [State.wordAt, hhi, hlo, wordOfBytes_bytesOfWord]

/-- Settles O47: the store leaves `PC`, so the fetch still fits, and it reads back the word stored. -/
theorem storedWordIsFetched : Obligations.StoredWordIsFetched := by
  unfold Obligations.StoredWordIsFetched
  intro s w hm hpc
  calc fetch (s.storeBytes s.pc.toNat (bytesOfWord w))
      = .ok ((s.storeBytes s.pc.toNat (bytesOfWord w)).wordAt s.pc.toNat) := fetch_of_fits hpc
    _ = .ok w := by rw [State.wordAt_storeBytes hm]

end Sys2Proof.Machine

/-! The masks of the opcode map as conditions on the fields of a word, and what each says of the word (30_encoding.md R82,
R85). -/

namespace Sys2Proof

/-! A word matches a row iff its literal fields are the row's; the other fields are free (R85, R87). -/

theorem and_F000_eq_iff {w p : Word} (hp : p &&& 0xF000 = p) :
    w &&& 0xF000 = p ↔ (fieldFamily w).toNat = p.toNat / 4096 := by
  simp only [← BitVec.toNat_inj, and_F000_toNat, fieldFamily_toNat] at hp ⊢
  omega

theorem and_F00F_eq_iff {w p : Word} (hp : p &&& 0xF00F = p) :
    w &&& 0xF00F = p ↔ (fieldFamily w).toNat = p.toNat / 4096 ∧ (fieldN w).toNat = p.toNat % 16 := by
  simp only [← BitVec.toNat_inj, and_F00F_toNat, fieldFamily_toNat, fieldN_toNat] at hp ⊢
  omega

theorem and_F0FF_eq_iff {w p : Word} (hp : p &&& 0xF0FF = p) :
    w &&& 0xF0FF = p ↔ (fieldFamily w).toNat = p.toNat / 4096 ∧ (fieldNN w).toNat = p.toNat % 256 := by
  simp only [← BitVec.toNat_inj, and_F0FF_toNat, fieldFamily_toNat, fieldNN_toNat] at hp ⊢
  omega

theorem and_FFFF (w : Word) : w &&& 0xFFFF = w := BitVec.and_allOnes

/-! A word that matches a row is made of the row's literal fields and the word's other fields, format by format. -/

theorem encodeNNN_of_match {w p : Word} (h : w &&& 0xF000 = p) : encodeNNN (fieldFamily p) (fieldNNN w) = w := by
  subst h
  simp only [← BitVec.toNat_inj, and_F000_toNat, encodeNNN_toNat, fieldFamily_toNat, fieldNNN_toNat]
  omega

theorem encodeXNN_of_match {w p : Word} (h : w &&& 0xF000 = p) :
    encodeXNN (fieldFamily p) (fieldX w) (fieldNN w) = w := by
  subst h
  simp only [← BitVec.toNat_inj, and_F000_toNat, encodeXNN_toNat, fieldFamily_toNat, fieldX_val, fieldNN_toNat]
  omega

theorem encodeXYN_of_match {w p : Word} (h : w &&& 0xF000 = p) :
    encodeXYN (fieldFamily p) (fieldX w) (fieldY w) (fieldN w) = w := by
  subst h
  simp only [← BitVec.toNat_inj, and_F000_toNat, encodeXYN_toNat, fieldFamily_toNat, fieldX_val, fieldY_val, fieldN_toNat]
  omega

theorem encodeXYs_of_match {w p : Word} (h : w &&& 0xF00F = p) :
    encodeXYN (fieldFamily p) (fieldX w) (fieldY w) (fieldN p) = w := by
  subst h
  simp only [← BitVec.toNat_inj, and_F00F_toNat, encodeXYN_toNat, fieldFamily_toNat, fieldX_val, fieldY_val, fieldN_toNat]
  omega

theorem encodeXss_of_match {w p : Word} (h : w &&& 0xF0FF = p) :
    encodeXNN (fieldFamily p) (fieldX w) (fieldNN p) = w := by
  subst h
  simp only [← BitVec.toNat_inj, and_F0FF_toNat, encodeXNN_toNat, fieldFamily_toNat, fieldX_val, fieldNN_toNat]
  omega

end Sys2Proof

/-! Decoding an encoded instruction, and the rows of the opcode map (30_encoding.md R84 to R87). -/

namespace Sys2Proof.Machine

open Sys2Proof.Laws.Encoding (maskMatch)

/-- The handler of a family knows none of the words the table lists under it (R86: families 0, 5, 8, 9, E and F). -/
theorem decode_of_isUndefinedWord {w : Word} (h : isUndefinedWord w = true) : decode w = .undef w := by
  simp only [isUndefinedWord, ← fieldFamily.eq_def, ← fieldN.eq_def, ← fieldNN.eq_def] at h
  split at h
  case h_1 hf => simp_all [decode, decode0]
  case h_2 hf | h_4 hf => simp_all [decode, decodeXY0]
  case h_3 hf =>
    simp only [Bool.or_eq_true, beq_iff_eq] at h
    rcases h with (((((hn | hn) | hn) | hn) | hn) | hn) | hn <;> simp [decode, hf, decode8, hn]
  case h_5 hf => simp_all [decode, decodeE, ← BitVec.toNat_inj]
  case h_6 hf => simp_all [decode, decodeF, ← BitVec.toNat_inj]
  case h_7 => cases h

/-- The word of an instruction is read back: by the family nibble alone, or by the handler of its family. -/
theorem decode_encode {i : Instr} (h : WellFormed i) : decode (encode i) = i := by
  cases i with
  | cls | ret => rfl
  | jp | call | ldI | jpV0 | seImm | sneImm | ldImm | addImm | rnd | drw => simp [encode, decode]
  | seReg | sneReg => simp [encode, decode, decodeXY0]
  | ldReg | orReg | andReg | xorReg | addReg | subReg | shrReg | subnReg | shlReg => simp [encode, decode, decode8]
  | skp | sknp => simp [encode, decode, decodeE]
  | ldVxDt | ldVxK | ldDtVx | ldStVx | addI | ldF | ldB | ldMemVx | ldVxMem => simp [encode, decode, decodeF]
  | undef w => exact decode_of_isUndefinedWord h

/-- Settles O1: the decoder reads every well-formed instruction back from its word, and the word from its two bytes. -/
theorem decodeOfEncodeIsIdentity : Obligations.DecodeOfEncodeIsIdentity := by
  unfold Obligations.DecodeOfEncodeIsIdentity
  intro i hwf
  rw [decodeBytes_bytesOfWord, decode_encode hwf]
  exact ⟨rfl, rfl⟩

/-- `UNDEF` is the one instruction whose form has a condition (R83). -/
theorem wellFormed_of_ne_undef {i : Instr} (h : ∀ w, i ≠ .undef w) : WellFormed i := by
  cases i with
  | undef w => exact absurd rfl (h w)
  | _ => rfl

section Rows

variable {row : OpcodeRow} (hrow : row ∈ opcodeMap)
include hrow

/-- A row's instruction determines the row's mask and pattern. -/
theorem maskMatch_instr (w : Word) : maskMatch (row.instr w) = (row.mask, row.pattern) := by
  revert row
  simp [opcodeMap, maskMatch]

theorem instr_ne_undef (w u : Word) : row.instr w ≠ .undef u := by
  revert row
  simp [opcodeMap]

/-- The instruction a row makes of a word that matches it encodes to that word, row by row in the table's order. -/
theorem encode_instr {w : Word} (h : w &&& row.mask = row.pattern) : encode (row.instr w) = w := by
  have fixed {p : Word} (h : w &&& 0xFFFF = p) : p = w := h.symm.trans (and_FFFF w)
  have nnn {p : Word} := encodeNNN_of_match (w := w) (p := p)
  have xnn {p : Word} := encodeXNN_of_match (w := w) (p := p)
  have xyn {p : Word} := encodeXYN_of_match (w := w) (p := p)
  have xys {p : Word} := encodeXYs_of_match (w := w) (p := p)
  have xss {p : Word} := encodeXss_of_match (w := w) (p := p)
  revert row
  simp only [opcodeMap, List.forall_mem_append, List.forall_mem_cons]
  exact ⟨⟨⟨⟨fixed, fixed, nnn, nnn, xnn, xnn, xys, xnn, xnn, nofun⟩,
    xys, xys, xys, xys, xys, xys, xys, xys, xys, nofun⟩,
    xys, nnn, nnn, xnn, xyn, xss, xss, nofun⟩,
    xss, xss, xss, xss, xss, xss, xss, xss, xss, nofun⟩

/-- The decoder reads a word that matches a row as the row's instruction, since that instruction has this word. -/
theorem decode_of_match {w : Word} (h : w &&& row.mask = row.pattern) : decode w = row.instr w := by
  have hwf : WellFormed (row.instr w) := wellFormed_of_ne_undef (instr_ne_undef hrow w)
  calc decode w = decode (encode (row.instr w)) := by rw [encode_instr hrow h]
    _ = row.instr w := decode_encode hwf

/-- Rows with the same instruction have the same mask and pattern. -/
theorem row_eq_of_instr_eq {row' : OpcodeRow} (hrow' : row' ∈ opcodeMap) {w : Word} (h : row.instr w = row'.instr w) :
    row.mask = row'.mask ∧ row.pattern = row'.pattern := by
  have hsame := congrArg maskMatch h
  rwa [maskMatch_instr hrow, maskMatch_instr hrow', Prod.mk.injEq] at hsame

end Rows

/-- The map and the table of R86 leave no word out: family by family, the fields that no row has are the listed ones. -/
theorem match_or_isUndefinedWord (w : Word) :
    (∃ row ∈ opcodeMap, w &&& row.mask = row.pattern) ∨ isUndefinedWord w = true := by
  have hfam : (fieldFamily w).toNat < 16 := (fieldFamily w).isLt
  have hn : (fieldN w).toNat < 16 := (fieldN w).isLt
  simp (disch := decide) only [opcodeMap, List.mem_append, List.mem_cons, or_and_right, exists_or, exists_eq_left,
    and_F000_eq_iff, and_F00F_eq_iff, and_F0FF_eq_iff, and_FFFF]
  simp only [isUndefinedWord, ← fieldFamily.eq_def, ← fieldN.eq_def, ← fieldNN.eq_def]
  split <;> simp only [Bool.and_eq_true, Bool.or_eq_true, bne_iff_ne, beq_iff_eq, ne_eq, ← BitVec.toNat_inj] <;> grind

/-- The two ways of the decoder: a row of the map, or the table of undefined words. -/
theorem decode_cases (w : Word) :
    (∃ row ∈ opcodeMap, w &&& row.mask = row.pattern ∧ decode w = row.instr w) ∨
      (isUndefinedWord w = true ∧ decode w = .undef w) := by
  rcases match_or_isUndefinedWord w with ⟨row, hrow, h⟩ | h
  · exact .inl ⟨row, hrow, h, decode_of_match hrow h⟩
  · exact .inr ⟨h, decode_of_isUndefinedWord h⟩

/-- Settles O2: a word is that of its row's instruction, or it is listed and `UNDEF` keeps it. -/
theorem encodeOfDecodeIsIdentity : Obligations.EncodeOfDecodeIsIdentity := by
  unfold Obligations.EncodeOfDecodeIsIdentity
  intro w
  rcases decode_cases w with ⟨row, hrow, h, hdec⟩ | ⟨h, hdec⟩
  · rw [hdec]
    exact ⟨wellFormed_of_ne_undef (instr_ne_undef hrow w), encode_instr hrow h⟩
  · rw [hdec]
    exact ⟨h, rfl⟩

/-- Settles O4: the listed words are read as `UNDEF`, and what is read is well formed. -/
theorem undefinedWordsAreTheListedOnes : Obligations.UndefinedWordsAreTheListedOnes := by
  unfold Obligations.UndefinedWordsAreTheListedOnes
  intro w
  refine ⟨fun hdec => ?_, decode_of_isUndefinedWord⟩
  have hwf : WellFormed (decode w) := (encodeOfDecodeIsIdentity w).1
  rwa [hdec] at hwf

/-- A word read as a row's instruction matches that row, since the row it matches has the same instruction. -/
theorem match_iff_decode_eq {row : OpcodeRow} (hrow : row ∈ opcodeMap) {w : Word} :
    w &&& row.mask = row.pattern ↔ decode w = row.instr w := by
  refine ⟨decode_of_match hrow, fun hdec => ?_⟩
  rcases decode_cases w with ⟨row', hrow', h, hdec'⟩ | ⟨-, hundef⟩
  · obtain ⟨hmask, hpattern⟩ := row_eq_of_instr_eq hrow hrow' (hdec.symm.trans hdec')
    rwa [hmask, hpattern]
  · exact absurd (hdec.symm.trans hundef) (instr_ne_undef hrow w w)

/-- Settles O3: the decoder reads exactly a row's words as its instruction, so two rows of one word have one instruction,
and no row's words are `UNDEF`. -/
theorem decoderIsTheOpcodeMap : Obligations.DecoderIsTheOpcodeMap := by
  unfold Obligations.DecoderIsTheOpcodeMap
  refine ⟨fun row hrow w => match_iff_decode_eq hrow, fun w row hrow row' hrow' h h' => ?_, fun w => ⟨fun hno => ?_, ?_⟩⟩
  · exact row_eq_of_instr_eq hrow hrow' ((decode_of_match hrow h).symm.trans (decode_of_match hrow' h'))
  · rcases decode_cases w with ⟨row, hrow, h, -⟩ | ⟨-, hundef⟩
    · exact absurd h (hno row hrow)
    · exact hundef
  · intro hundef row hrow h
    exact instr_ne_undef hrow w w ((decode_of_match hrow h).symm.trans hundef)

/-- Settles O5: the decoder computes each of the eleven words. -/
theorem sampleWordsDecode : Obligations.SampleWordsDecode := by
  unfold Obligations.SampleWordsDecode
  decide

/-- Settles O10: a halted machine stays, a fetch outside memory faults, and every decoded instruction completes. -/
theorem everyStepCompletes : Obligations.EveryStepCompletes := by
  unfold Obligations.EveryStepCompletes
  intro s
  cases hf : s.fault with
  | some f => exact ⟨s, step_of_fault hf⟩
  | none =>
    cases hfetch : fetch s with
    | error f => exact ⟨s.raise f, by simp [step, hf, hfetch, takeFault]⟩
    | ok w =>
      obtain ⟨t, hexec, -⟩ := exec_effect (decode w) s
      exact ⟨t, by simpa [step, hf, hfetch] using hexec⟩

end Sys2Proof.Machine

/-! The ways of a step, and the undefined words (40_dispatch.md R100 to R106). -/

namespace Sys2Proof.Machine

/-- With no fault latched and `PC` inside memory, a step is the instruction fetched (40_dispatch.md R101 to R103). -/
theorem step_of_fits {s : State} (hf : s.fault = none) (hpc : s.pc.toNat ≤ 0xFFE) :
    step s = exec (decode (s.wordAt s.pc.toNat)) s := by
  simp only [step, hf, fetch_of_fits hpc]

/-- With no fault latched and `PC` outside memory, a step raises the fault of the fetch (40_dispatch.md R101). -/
theorem step_of_over {s : State} (hf : s.fault = none) (hpc : 0xFFF ≤ s.pc.toNat) :
    step s = .next (s.raise (.addressFault s.pc (max s.pc.toNat 0x1000))) := by
  simp only [step, hf, fetch_of_over hpc, takeFault]

/-- Two bytes of memory decode as the word they make (20_memory.md R55, 30_encoding.md R80). -/
theorem State.decodeBytes_readBytes_two (s : State) (a : Nat) :
    decodeBytes (s.mem.readBytes a 2) = .ok (decode (s.wordAt a), []) := rfl

/-- Settles O7: the two bytes at `PC` make the word that the step fetches, so they decode to the instruction it runs. -/
theorem stepRunsTheDecodedInstruction : Obligations.StepRunsTheDecodedInstruction := by
  unfold Obligations.StepRunsTheDecodedInstruction
  intro s i hf hpc hdec
  rw [s.decodeBytes_readBytes_two] at hdec
  cases hdec
  exact step_of_fits hf hpc

/-- Settles O8: the fetch fails with the lowest bad address, and the step raises that fault. -/
theorem fetchOutsideMemoryFaults : Obligations.FetchOutsideMemoryFaults := by
  unfold Obligations.FetchOutsideMemoryFaults
  exact fun _ hf hpc => step_of_over hf hpc

/-- Settles O9: both operations look at `FAULT` first. -/
theorem haltedMachineDoesNothing : Obligations.HaltedMachineDoesNothing := by
  unfold Obligations.HaltedMachineDoesNothing
  intro s hne
  obtain ⟨f, hf⟩ := Option.ne_none_iff_exists'.mp hne
  exact ⟨step_of_fault hf, fun bytes => congrArg Host.Outcome.next (State.load_of_fault hf bytes)⟩

/-- The normal advance touches `PC` alone (40_dispatch.md R104 (a)). -/
theorem State.advance_onlyPcAnd (s : State) : OnlyPcAnd s s.advance [] :=
  OnlyTouches.refl.setPc (.inl rfl)

/-- Settles O44: the decoder is the opcode map, so a word outside it is `UNDEF`, whose meaning is the normal advance. -/
theorem undefinedWordIsANoOp : Obligations.UndefinedWordIsANoOp := by
  unfold Obligations.UndefinedWordIsANoOp
  obtain ⟨-, -, hundef⟩ := decoderIsTheOpcodeMap
  exact ⟨fun w hno => (hundef w).mp hno, fun _ s => ⟨s.advance, rfl, rfl, s.advance_onlyPcAnd⟩⟩

end Sys2Proof.Machine

/-! Control flow (41_control_flow.md): the laws of `PC` and of the stack, and the instructions of the family. -/

namespace Sys2Proof.Machine

/-- Every row of the opcode map holds exactly of the words it matches (30_encoding.md R84, R85). -/
theorem decodes_of_mem {row : OpcodeRow} (hrow : row ∈ opcodeMap) : row.Decodes :=
  fun _ => match_iff_decode_eq hrow

/-- A word in memory at `PC` that encodes `i` makes the step the meaning of `i` (40_dispatch.md R101 to R103). -/
theorem step_of_encoded {s : State} {i : Instr} (hf : s.fault = none) (hpc : s.pc.toNat ≤ 0xFFE)
    (hword : s.wordAt s.pc.toNat = encode i) (hwf : WellFormed i) : step s = exec i s := by
  rw [step_of_fits hf hpc, hword, decode_encode hwf]

/-! Writing `PC`. -/

theorem State.setPc_self (s : State) : s.setPc s.pc = s := rfl

/-- A write of `PC` touches `PC` alone; the normal advance and the skips are such writes. -/
theorem State.setPc_onlyPcAnd (s : State) (w : Word) : OnlyPcAnd s (s.setPc w) [] :=
  OnlyTouches.refl.setPc (.inl rfl)

/-- After a jump out of memory the next step raises the fault of the fetch (40_dispatch.md R101). -/
theorem step_setPc_of_over {s : State} {w : Word} (hf : s.fault = none) (hw : 0xFFF ≤ w.toNat) :
    ∃ u, step (s.setPc w) = .next u ∧ u.fault = some (.addressFault w (max w.toNat 0x1000)) :=
  ⟨_, step_of_over hf hw, rfl⟩

/-- What a skip answers, its condition as a proposition, with its frame (41_control_flow.md R130). -/
theorem State.skipIf_spec (s : State) {c : Bool} {p : Prop} [Decidable p] (h : c = true ↔ p) :
    (s.skipIf c).pc = (if p then s.pc + 4 else s.pc + 2) ∧ OnlyPcAnd s (s.skipIf c) [] :=
  ⟨if_congr h rfl rfl, s.setPc_onlyPcAnd _⟩

/-! The stack: a push with a level left, and the pop that undoes it (41_control_flow.md R121, R123). -/

theorem State.push_sp_val {s : State} (hsp : s.sp ≠ 15) (w : Word) : (s.push w).sp.val = s.sp.val + 1 :=
  Fin.val_add_one_of_lt (Fin.lt_last_iff_ne_last.mpr hsp)

theorem State.pop_sp_val {s : State} (hsp : s.sp ≠ 0) : s.pop.sp.val = s.sp.val - 1 :=
  Fin.val_sub_one_of_ne_zero hsp

@[simp] theorem State.top_push (s : State) (w : Word) : (s.push w).top = w :=
  (s.getStk_push w (s.sp + 1)).trans (if_pos rfl)

/-- The pop takes back the stack pointer but not the cell the push wrote. -/
theorem State.pop_push (s : State) (w : Word) : (s.push w).pop = s.setStk (s.sp + 1) w := by
  have hsp : s.sp + 1 - 1 = s.sp := add_sub_cancel_right s.sp 1
  simp only [State.pop, State.push_sp, hsp]
  rfl

theorem State.push_sp_ne_zero {s : State} (hsp : s.sp ≠ 15) (w : Word) : (s.push w).sp ≠ 0 :=
  Fin.val_ne_zero_iff.mp (by rw [State.push_sp_val hsp]; exact Nat.succ_ne_zero _)

/-- A return finds what the call pushed: it undoes the push but for the cell, wherever the call has led. -/
theorem exec_ret_of_push {s : State} (hsp : s.sp ≠ 15) (w target : Word) :
    exec .ret ((s.push w).setPc target) = .next ((s.setStk (s.sp + 1) w).setPc w) :=
  calc exec .ret ((s.push w).setPc target)
    _ = .next ((s.push w).pop.setPc (s.push w).top) :=
        exec_ret_of_faultOf_none (if_neg (State.push_sp_ne_zero hsp w))
    _ = .next ((s.setStk (s.sp + 1) w).setPc w) := by rw [State.pop_push, State.top_push]

/-! The instructions. -/

/-- Settles O20: the target is `NNN`; where it is `PC` itself the write of `PC` is no change, and where it is 0xFFF the fetch
needs a byte outside memory. -/
theorem jumpSetsPc : Obligations.JumpSetsPc := by
  unfold Obligations.JumpSetsPc
  refine ⟨decodes_of_mem (by simp [opcodeMap]), fun nnn s => ?_⟩
  refine ⟨s.setPc (zext12 nnn), rfl, zext12_toNat nnn, s.setPc_onlyPcAnd _, fun hself => ?_, fun hnnn hf => ?_⟩
  · have hpc : zext12 nnn = s.pc := BitVec.eq_of_toNat_eq ((zext12_toNat nnn).trans hself)
    rw [hpc, s.setPc_self]
  · subst hnnn
    exact step_setPc_of_over (w := 0xFFF) hf (by decide)

/-- Settles O21: the sum of a 12-bit and an 8-bit number fits `PC`, so nothing is reduced. -/
theorem jumpWithOffsetAddsV0 : Obligations.JumpWithOffsetAddsV0 := by
  unfold Obligations.JumpWithOffsetAddsV0
  intro nnn s
  have hsum := jumpSum_toNat nnn (s.getV 0)
  exact ⟨_, rfl, hsum, s.setPc_onlyPcAnd _, fun hover hf => step_setPc_of_over hf (hover.trans_eq hsum.symm)⟩

/-- Settles O22: both are skips, on the equality with the immediate and on its negation. -/
theorem skipsCompareImmediates : Obligations.SkipsCompareImmediates := by
  unfold Obligations.SkipsCompareImmediates
  refine ⟨decodes_of_mem (by simp [opcodeMap]), decodes_of_mem (by simp [opcodeMap]), fun x nn s => ⟨?_, ?_⟩⟩
  · exact ⟨_, rfl, s.skipIf_spec beq_iff_eq⟩
  · exact ⟨_, rfl, s.skipIf_spec bne_iff_ne⟩

/-- Settles O23: both are skips, on the equality of the registers, which holds where `X = Y`, and on its negation. -/
theorem skipsCompareRegisters : Obligations.SkipsCompareRegisters := by
  unfold Obligations.SkipsCompareRegisters
  refine ⟨decodes_of_mem (by simp [opcodeMap]), decodes_of_mem (by simp [opcodeMap]), fun x y s => ⟨?_, ?_⟩⟩
  · obtain ⟨hpc, hframe⟩ := s.skipIf_spec (beq_iff_eq (a := s.getV x) (b := s.getV y))
    exact ⟨_, rfl, hpc, fun hxy => hpc.trans (if_pos (congrArg s.getV hxy)), hframe⟩
  · obtain ⟨hpc, hframe⟩ := s.skipIf_spec (bne_iff_ne (a := s.getV x) (b := s.getV y))
    exact ⟨_, rfl, hpc, fun hxy => hpc.trans (if_neg (not_not_intro (congrArg s.getV hxy))), hframe⟩

/-- Settles O45: the call leaves memory alone, so the step at its target is the return, which finds what the call pushed. -/
theorem callReturnRoundTrip : Obligations.CallReturnRoundTrip := by
  unfold Obligations.CallReturnRoundTrip
  intro s nnn hf hsp hpc hnnn hcall hret
  have hroom : s.sp ≠ 15 := Fin.ne_of_lt (Nat.lt_succ_of_le hsp)
  have hfirst : step s = .next ((s.push (s.pc + 2)).setPc (zext12 nnn)) :=
    (step_of_encoded hf hpc hcall rfl).trans (exec_call_of_faultOf_none (if_neg hroom))
  have htarget := zext12_toNat nnn
  have hsecond : step ((s.push (s.pc + 2)).setPc (zext12 nnn)) = exec .ret ((s.push (s.pc + 2)).setPc (zext12 nnn)) :=
    step_of_encoded hf (htarget.trans_le hnnn) ((congrArg s.wordAt htarget).trans hret) rfl
  refine ⟨_, _, hfirst, hsecond.trans (exec_ret_of_push hroom _ _), ?_, rfl, ?_, ?_⟩
  · exact BitVec.toNat_add_of_lt (show s.pc.toNat + 2 < 2 ^ 16 by omega)
  · exact (s.getStk_setStk ..).trans (if_pos rfl)
  · exact (OnlyTouches.refl.setStk (.inr (.head _))).setPc (.inl rfl)

/-- Settles O16: the framebuffer written is the blank one, and the normal advance follows. -/
theorem clearScreenTurnsEveryCellOff : Obligations.ClearScreenTurnsEveryCellOff := by
  unfold Obligations.ClearScreenTurnsEveryCellOff
  refine ⟨decodes_of_mem (by simp [opcodeMap]), fun s => ⟨_, rfl, Framebuffer.blank_get, rfl, ?_⟩⟩
  exact (OnlyTouches.refl.setFb fun y x => .inr ⟨y, x, rfl⟩).setPc (.inl rfl)

/-- Settles O17: with a call outstanding the fault check passes, and the answer is the pop with `PC` from the top. -/
theorem returnPopsTheStack : Obligations.ReturnPopsTheStack := by
  unfold Obligations.ReturnPopsTheStack
  intro s hsp
  refine ⟨_, exec_ret_of_faultOf_none (if_neg hsp), rfl, State.pop_sp_val hsp, ?_⟩
  exact (OnlyTouches.refl.setSp (.inr (.head _))).setPc (.inl rfl)

/-- Settles O18: with a level left the fault check passes, and the answer is the push with `PC` at the target. -/
theorem callPushesTheReturnAddress : Obligations.CallPushesTheReturnAddress := by
  unfold Obligations.CallPushesTheReturnAddress
  intro nnn s hsp
  refine ⟨_, exec_call_of_faultOf_none (if_neg hsp), State.push_sp_val hsp (s.pc + 2), s.top_push _, zext12_toNat nnn, ?_⟩
  exact ((OnlyTouches.refl.setSp (.inr (.head _))).setStk (.inr (.tail _ (.head _)))).setPc (.inl rfl)

end Sys2Proof.Machine

/-! Registers and ALU (42_alu.md): the two states the family answers, its arithmetic as numbers, and the instructions. -/

namespace Sys2Proof.Machine

/-! A register write and the normal advance. -/

theorem State.getV_setV_advance (s : State) (x : Reg) (b : Byte) : (s.setV x b).advance.getV x = b :=
  (s.getV_setV x x b).trans (if_pos rfl)

theorem State.setV_advance_onlyPcAnd (s : State) (x : Reg) (b : Byte) : OnlyPcAnd s (s.setV x b).advance [.v x] :=
  (OnlyTouches.refl.setV (.inr (.head _))).setPc (.inl rfl)

/-! The flag, then the destination, then the normal advance (42_alu.md R153). -/

/-- The destination is written last, so it holds the result even where it is `VF`. -/
theorem State.getV_setFlagThenV_advance (s : State) (x : Reg) (c : Bool) (b : Byte) :
    (s.setFlagThenV x c b).advance.getV x = b :=
  (s.getV_setFlagThenV x x c b).trans (if_pos rfl)

/-- A destination other than `VF` leaves the flag there, here with its condition as a proposition. -/
theorem State.getVF_setFlagThenV_advance (s : State) {x : Reg} (hx : x ≠ 0xF) {c : Bool} {p : Prop} [Decidable p]
    (h : c = true ↔ p) (b : Byte) : (s.setFlagThenV x c b).advance.getV 0xF = if p then 1 else 0 :=
  calc (s.setFlagThenV x c b).advance.getV 0xF
    _ = if 0xF = regVF then if c then 1 else 0 else s.getV 0xF := (s.getV_setFlagThenV x 0xF c b).trans (if_neg hx.symm)
    _ = if c then 1 else 0 := if_pos rfl
    _ = if p then 1 else 0 := if_congr h rfl rfl

theorem State.setFlagThenV_advance_onlyPcAnd (s : State) (x : Reg) (c : Bool) (b : Byte) :
    OnlyPcAnd s (s.setFlagThenV x c b).advance [.v x, .v 0xF] :=
  ((OnlyTouches.refl.setV (.inr (.tail _ (.head _)))).setV (.inr (.head _))).setPc (.inl rfl)

/-! The results as numbers. -/

/-- The difference wraps as the floor remainder on integers does (42_alu.md R147, R148). -/
theorem byte_sub_toNat (a b : Byte) : ((a - b).toNat : Int) = ((a.toNat : Int) - b.toNat) % 256 := by
  have := a.isLt
  have := b.isLt
  rw [BitVec.toNat_sub]
  omega

theorem byte_shiftRight_one_toNat (b : Byte) : (b >>> 1).toNat = b.toNat / 2 := by
  rw [BitVec.toNat_ushiftRight, Nat.shiftRight_one]

theorem byte_shiftLeft_one_toNat (b : Byte) : (b <<< 1).toNat = b.toNat * 2 % 256 := by
  rw [BitVec.toNat_shiftLeft, Nat.shiftLeft_eq, pow_one]

/-! The instructions. -/

/-- Settles O25: both are a register write, of the immediate and of the other register. -/
theorem loadsWriteTheRegister : Obligations.LoadsWriteTheRegister := by
  unfold Obligations.LoadsWriteTheRegister
  refine ⟨decodes_of_mem (by simp [opcodeMap]), decodes_of_mem (by simp [opcodeMap]), fun x y nn s => ⟨?_, ?_⟩⟩
  · exact ⟨_, rfl, s.getV_setV_advance x nn, rfl, s.setV_advance_onlyPcAnd x nn⟩
  · exact ⟨_, rfl, s.getV_setV_advance x (s.getV y), rfl, s.setV_advance_onlyPcAnd x (s.getV y)⟩

/-- Settles O26: a register write of the sum of bytes, which wraps. -/
theorem addImmediateWrapsWithoutFlag : Obligations.AddImmediateWrapsWithoutFlag := by
  unfold Obligations.AddImmediateWrapsWithoutFlag
  refine fun x nn s => ⟨_, rfl, ?_, rfl, s.setV_advance_onlyPcAnd x _⟩
  rw [s.getV_setV_advance, BitVec.toNat_add]

/-- Settles O27: register writes of operations on bytes that act on each bit. -/
theorem bitwiseOpsActOnEveryBit : Obligations.BitwiseOpsActOnEveryBit := by
  unfold Obligations.BitwiseOpsActOnEveryBit
  intro x y s
  refine ⟨⟨_, rfl, rfl, s.setV_advance_onlyPcAnd x _, fun b => ?_⟩, ⟨_, rfl, rfl, s.setV_advance_onlyPcAnd x _, fun b => ?_⟩,
    ⟨_, rfl, rfl, s.setV_advance_onlyPcAnd x _, fun b => ?_⟩⟩
  · rw [s.getV_setV_advance, BitVec.getLsbD_or]
  · rw [s.getV_setV_advance, BitVec.getLsbD_and]
  · rw [s.getV_setV_advance, BitVec.getLsbD_xor]

/-- Settles O28: the flag is the carry, then the destination takes the sum of bytes, which wraps. -/
theorem addSetsCarry : Obligations.AddSetsCarry := by
  unfold Obligations.AddSetsCarry
  refine ⟨decodes_of_mem (by simp [opcodeMap]), fun x y s => ?_⟩
  refine ⟨_, rfl, ?_, fun hx => s.getVF_setFlagThenV_advance hx (flagCarry_iff ..) _, rfl,
    s.setFlagThenV_advance_onlyPcAnd x _ _⟩
  rw [s.getV_setFlagThenV_advance, BitVec.toNat_add]

/-- Settles O29: the flag is no borrow from the minuend, then the destination takes the difference of bytes; the two
instructions have their operands exchanged. -/
theorem subtractSetsNoBorrow : Obligations.SubtractSetsNoBorrow := by
  unfold Obligations.SubtractSetsNoBorrow
  refine ⟨decodes_of_mem (by simp [opcodeMap]), decodes_of_mem (by simp [opcodeMap]), fun x y s => ⟨?_, ?_⟩⟩
  · refine ⟨_, rfl, ?_, fun hx => s.getVF_setFlagThenV_advance hx (flagNoBorrow_iff ..) _, rfl,
      s.setFlagThenV_advance_onlyPcAnd x _ _⟩
    rw [s.getV_setFlagThenV_advance, byte_sub_toNat]
  · refine ⟨_, rfl, ?_, fun hx => s.getVF_setFlagThenV_advance hx (flagNoBorrow_iff ..) _, rfl,
      s.setFlagThenV_advance_onlyPcAnd x _ _⟩
    rw [s.getV_setFlagThenV_advance, byte_sub_toNat]

/-- Settles O30: the flag is the bit at the end shifted out of, then the destination takes the shifted byte. -/
theorem shiftsMoveTheBitOut : Obligations.ShiftsMoveTheBitOut := by
  unfold Obligations.ShiftsMoveTheBitOut
  refine ⟨decodes_of_mem (by simp [opcodeMap]), decodes_of_mem (by simp [opcodeMap]), fun x y s => ⟨?_, ?_⟩⟩
  · refine ⟨_, rfl, ?_, fun hx => ?_, rfl, s.setFlagThenV_advance_onlyPcAnd x _ _⟩
    · rw [s.getV_setFlagThenV_advance, byte_shiftRight_one_toNat]
    · rw [s.getVF_setFlagThenV_advance hx Iff.rfl, flagBitOutRight_toNat]
  · refine ⟨_, rfl, ?_, fun hx => ?_, rfl, s.setFlagThenV_advance_onlyPcAnd x _ _⟩
    · rw [s.getV_setFlagThenV_advance, byte_shiftLeft_one_toNat]
    · rw [s.getVF_setFlagThenV_advance hx Iff.rfl, flagBitOutLeft_toNat]

/-- Settles O32: the write of `I` takes a 12-bit number. -/
theorem loadIndexZeroExtends : Obligations.LoadIndexZeroExtends := by
  unfold Obligations.LoadIndexZeroExtends
  refine ⟨decodes_of_mem (by simp [opcodeMap]), fun nnn s => ?_⟩
  have hi : (zext12 nnn).toNat = nnn.toNat := zext12_toNat nnn
  refine ⟨_, rfl, hi, hi.trans_le (Nat.le_of_lt_succ nnn.isLt), rfl, ?_⟩
  exact (OnlyTouches.refl.setI (.inr (.head _))).setPc (.inl rfl)

/-- Settles O33: whatever byte is drawn, the conjunction with `NN` has no bit that `NN` has not. -/
theorem randomByteIsMasked : Obligations.RandomByteIsMasked := by
  unfold Obligations.RandomByteIsMasked
  intro x nn s
  have hv := s.drawn.getV_setV_advance x (s.draw &&& nn)
  refine ⟨_, rfl, hv, ?_, fun hnn => ?_, rfl, rfl, ?_⟩
  · rw [hv, BitVec.and_assoc, BitVec.and_not_self]
    exact BitVec.and_zero
  · rw [hv, hnn]
    exact BitVec.and_zero
  · exact ((OnlyTouches.refl.drawn (.inr (.tail _ (.head _)))).setV (.inr (.head _))).setPc (.inl rfl)

/-- Settles O31: each of the five answers the state with the flag written first and the result second, both computed from the
old registers, so the clauses are the two readings of that state. -/
theorem flagIsWrittenBeforeTheDestination : Obligations.FlagIsWrittenBeforeTheDestination := by
  unfold Obligations.FlagIsWrittenBeforeTheDestination
  refine ⟨fun y s => ?_, fun x y s hx => ?_, fun s => ?_⟩
  · have result := s.getV_setFlagThenV_advance 0xF
    exact ⟨⟨_, rfl, result _ _⟩, ⟨_, rfl, result _ _⟩, ⟨_, rfl, result _ _⟩, ⟨_, rfl, result _ _⟩, ⟨_, rfl, result _ _⟩⟩
  · have result := s.getV_setFlagThenV_advance x
    refine ⟨⟨_, rfl, result _ _, ?_⟩, ⟨_, rfl, result _ _, ?_⟩, ⟨_, rfl, result _ _, ?_⟩, ⟨_, rfl, result _ _, ?_⟩,
      ⟨_, rfl, result _ _, ?_⟩⟩
    · exact s.getVF_setFlagThenV_advance hx (flagCarry_iff ..) _
    · exact s.getVF_setFlagThenV_advance hx (flagNoBorrow_iff ..) _
    · exact s.getVF_setFlagThenV_advance hx (flagNoBorrow_iff ..) _
    · rw [s.getVF_setFlagThenV_advance hx Iff.rfl, flagBitOutRight_toNat]
    · rw [s.getVF_setFlagThenV_advance hx Iff.rfl, flagBitOutLeft_toNat]
  · have result := s.getV_setFlagThenV_advance 0xF
    refine ⟨⟨_, rfl, ?_⟩, ⟨_, rfl, ?_⟩, ⟨_, rfl, ?_⟩, ⟨_, rfl, ?_⟩, ⟨_, rfl, ?_⟩⟩
    · rw [result, BitVec.toNat_add, two_mul]
    · exact (result _ _).trans (BitVec.sub_self _)
    · exact (result _ _).trans (BitVec.sub_self _)
    · rw [result, byte_shiftRight_one_toNat]
    · rw [result, byte_shiftLeft_one_toNat]

end Sys2Proof.Machine

/-! The display (43_display.md): the state `DXYN` answers, its cells, its flag and its frame, and the sprite drawn twice. -/

namespace Sys2Proof.Machine

/-- The state after `DXYN` with every sprite byte inside memory (43_display.md R160). -/
def State.drawSprite (s : State) (x y : Reg) (n : Nibble) : State :=
  ((s.setFlag (s.rasterAfter x y n).hit).setFb (s.rasterAfter x y n).fb).advance

/-- A sprite inside memory, or of no rows, is drawn. -/
theorem exec_drw_of_fits {x y : Reg} {n : Nibble} {s : State} (h : n.toNat = 0 ∨ s.i.toNat + n.toNat ≤ 0x1000) :
    exec (.drw x y n) s = .next (s.drawSprite x y n) :=
  withSpan_of_ok h

section DrawSprite

variable (s : State) (x y : Reg) (n : Nibble)

/-- A sprite of no rows toggles no cell, so it does not collide. -/
theorem State.drawSprite_zero : s.drawSprite x y 0 = (s.setV 0xF 0).advance := rfl

theorem State.drawSprite_onlyTouches :
    OnlyTouches s (s.drawSprite x y n) fun e => e = .pc ∨ e = .v 0xF ∨ ∃ row col, e = .fb row col :=
  ((OnlyTouches.refl.setV (.inr (.inl rfl))).setFb fun row col => .inr (.inr ⟨row, col, rfl⟩)).setPc (.inl rfl)

/-- The XOR raster law, cell by cell (43_display.md R161). -/
theorem State.getFb_drawSprite (row : Fin 32) (col : Fin 64) :
    (s.drawSprite x y n).getFb row col = true ↔ Xor (s.getFb row col = true) (spriteCovers s x y n row col) :=
  (s.rasterAfter_get x y n row col).trans xor_iff_iff_not.symm

theorem State.getVF_drawSprite : (s.drawSprite x y n).getV 0xF = if (s.rasterAfter x y n).hit then 1 else 0 :=
  (s.getV_setFlag _ 0xF).trans (if_pos rfl)

theorem State.getVF_drawSprite_eq_zero_or_one :
    (s.drawSprite x y n).getV 0xF = 0 ∨ (s.drawSprite x y n).getV 0xF = 1 := by
  rw [State.getVF_drawSprite]
  exact (ite_eq_or_eq _ _ _).symm

/-- The flag is the collision (43_display.md R161). -/
theorem State.getVF_drawSprite_eq_one_iff :
    (s.drawSprite x y n).getV 0xF = 1 ↔ ∃ row col, s.getFb row col = true ∧ spriteCovers s x y n row col := by
  rw [State.getVF_drawSprite, ← State.rasterAfter_hit]
  cases (s.rasterAfter x y n).hit <;> decide

theorem State.getV_drawSprite_of_ne {r : Reg} (hr : r ≠ 0xF) : (s.drawSprite x y n).getV r = s.getV r :=
  (s.getV_setFlag _ r).trans (if_neg hr)

/-- A sprite has a cell in its mask exactly when it has a set bit (43_display.md R162). -/
theorem exists_spriteCovers_iff :
    (∃ row col, spriteCovers s x y n row col) ↔
      ∃ r b, r < n.toNat ∧ b < 8 ∧ (s.readMem (s.i.toNat + r)).getLsbD b = true := by
  constructor
  · rintro ⟨row, col, r, c, hr, hc, hbit, -, -⟩
    exact ⟨r, 7 - c, hr, by omega, hbit⟩
  · rintro ⟨r, b, hr, hb, hbit⟩
    have hcol : 7 - (7 - b) = b := by omega
    exact ⟨wrapRow ((s.getV y).toNat + r), wrapCol ((s.getV x).toNat + (7 - b)), r, 7 - b, hr, by omega,
      hcol.symm ▸ hbit, wrapRow_val _, wrapCol_val _⟩

/-- On an empty screen the sprite becomes the picture, so its own mask meets it exactly when it has a set bit. -/
theorem State.exists_getFb_drawSprite_of_empty (hempty : ∀ row col, s.getFb row col = false) :
    (∃ row col, (s.drawSprite x y n).getFb row col = true ∧ spriteCovers s x y n row col) ↔
      ∃ r b, r < n.toNat ∧ b < 8 ∧ (s.readMem (s.i.toNat + r)).getLsbD b = true := by
  have hpicture (row col) : (s.drawSprite x y n).getFb row col = true ↔ spriteCovers s x y n row col := by
    rw [State.getFb_drawSprite, hempty, xor_iff_iff_not]
    simp
  simp only [hpicture, and_self, exists_spriteCovers_iff]

section CoordinatesOffFlag

variable {x y} (hx : x ≠ 0xF) (hy : y ≠ 0xF)
include hx hy

/-- A draw moves nothing the mask is made of, unless a coordinate is read from `VF`. -/
theorem spriteCovers_drawSprite : spriteCovers (s.drawSprite x y n) x y n = spriteCovers s x y n := by
  funext row col
  rw [spriteCovers, s.getV_drawSprite_of_ne x y n hx, s.getV_drawSprite_of_ne x y n hy]
  rfl

/-- The mask cancels itself: the draw is an involution on the framebuffer (43_display.md R161). -/
theorem State.getFb_drawSprite_drawSprite (row : Fin 32) (col : Fin 64) :
    ((s.drawSprite x y n).drawSprite x y n).getFb row col = s.getFb row col := by
  rw [Bool.eq_iff_iff, State.getFb_drawSprite, State.getFb_drawSprite, spriteCovers_drawSprite s n hx hy]
  simp only [xor_iff_iff_not]
  tauto

theorem State.getVF_drawSprite_drawSprite_eq_one_iff :
    ((s.drawSprite x y n).drawSprite x y n).getV 0xF = 1 ↔
      ∃ row col, (s.drawSprite x y n).getFb row col = true ∧ spriteCovers s x y n row col := by
  rw [State.getVF_drawSprite_eq_one_iff, spriteCovers_drawSprite s n hx hy]

end CoordinatesOffFlag

end DrawSprite

/-- Settles O34: the cells and the flag are those of the raster law; a second draw has the same sprite at the same place, so
its mask cancels the first. -/
theorem drawIsXorWithTheSpriteMask : Obligations.DrawIsXorWithTheSpriteMask := by
  unfold Obligations.DrawIsXorWithTheSpriteMask
  intro x y n s hfit
  refine ⟨_, exec_drw_of_fits hfit, s.getFb_drawSprite x y n, s.getVF_drawSprite_eq_zero_or_one x y n,
    s.getVF_drawSprite_eq_one_iff x y n, fun hx hy => ?_⟩
  have hflag := s.getVF_drawSprite_drawSprite_eq_one_iff n hx hy
  exact ⟨_, exec_drw_of_fits hfit, s.getFb_drawSprite_drawSprite n hx hy, State.getVF_drawSprite_eq_zero_or_one _ x y n,
    hflag, fun hempty => hflag.trans (s.exists_getFb_drawSprite_of_empty x y n hempty)⟩

/-- Settles O35: the frame is that of the three updates the draw is made of; with no rows it is the write of a zero flag. -/
theorem drawCompletesAndFrames : Obligations.DrawCompletesAndFrames := by
  unfold Obligations.DrawCompletesAndFrames
  refine ⟨fun x y n s hfit => ⟨_, exec_drw_of_fits hfit, rfl, s.drawSprite_onlyTouches x y n⟩, fun x y s => ?_⟩
  refine ⟨_, exec_drw_of_fits (.inl rfl), ?_⟩
  rw [State.drawSprite_zero]
  exact ⟨s.getV_setV_advance 0xF 0, s.setV_advance_onlyPcAnd 0xF 0⟩

end Sys2Proof.Machine

/-! Input (44_input.md): the latch compared, polled and, by every other instruction, ignored. -/

namespace Sys2Proof.Machine

/-! The two skips, exact complements (44_input.md R170, R171). -/

theorem not_keyIs_iff {key : Option Key} {b : Byte} : (!keyIs key b) = true ↔ ¬ ∃ k, key = some k ∧ k.val = b.toNat := by
  rw [Bool.not_eq_true', ← Bool.not_eq_true, keyIs_iff]

/-- Settles O24: both are skips, on the latch holding the key numbered by all of `V[X]` and on its negation. -/
theorem skipsCompareTheLatch : Obligations.SkipsCompareTheLatch := by
  unfold Obligations.SkipsCompareTheLatch
  refine fun x s => ⟨?_, ?_⟩
  · obtain ⟨hpc, hframe⟩ := s.skipIf_spec (keyIs_iff (key := s.key) (b := s.getV x))
    exact ⟨_, rfl, hframe, fun hheld => hpc.trans (if_pos hheld), fun hheld => hpc.trans (if_neg hheld)⟩
  · obtain ⟨hpc, hframe⟩ := s.skipIf_spec (not_keyIs_iff (key := s.key) (b := s.getV x))
    exact ⟨_, rfl, hframe, fun hheld => hpc.trans (if_neg (not_not_intro hheld)), fun hheld => hpc.trans (if_pos hheld)⟩

/-- Settles O36: with no key the answer is the state itself; with one it is a register write of the key's number. -/
theorem keyWaitPollsTheLatch : Obligations.KeyWaitPollsTheLatch := by
  unfold Obligations.KeyWaitPollsTheLatch
  refine fun x s => ⟨exec_ldVxK_of_none, fun k hk => ?_⟩
  refine ⟨_, exec_ldVxK_of_some hk, ?_, rfl, s.setV_advance_onlyPcAnd x _⟩
  rw [s.getV_setV_advance, byteOfKey_toNat]

/-! The two checks before an answer do not read the latch (44_input.md R173). -/

section Checks

variable {s t t' : State} {k : Option Key} (ht : t' = t.setKey k)
include ht

/-- The check of a span reads `PC` and the span alone, so a change of the latch before it is one after it. -/
theorem withSpan_setKey {a n : Nat} : withSpan (s.setKey k) a n t' = Result.mapState (·.setKey k) (withSpan s a n t) := by
  subst ht
  simp only [withSpan, State.setKey_pc]
  cases firstBadAddress a n <;> rfl

/-- A change of the latch before the check of the stack pointer is one after it. -/
theorem ite_takeFault_setKey {flt : Fault} {p : Prop} [Decidable p] :
    (if p then takeFault flt (s.setKey k) else .next t') =
      Result.mapState (·.setKey k) (if p then takeFault flt s else .next t) := by
  subst ht
  split <;> rfl

end Checks

/-- Settles O14: the stack forms and the forms with a span check first, and the check does not read the latch; every other
instruction answers updates of other cells, which commute with one of the latch. -/
theorem onlyInputInstructionsReadTheLatch : Obligations.OnlyInputInstructionsReadTheLatch := by
  unfold Obligations.OnlyInputInstructionsReadTheLatch
  intro i s k hinput
  cases i with
  | skp x | sknp x | ldVxK x => exact absurd (hinput x) (by simp)
  | ret | call => exact ite_takeFault_setKey (by rfl)
  | drw | ldB | ldMemVx | ldVxMem => exact withSpan_setKey (by rfl)
  | cls | jp | jpV0 | seImm | sneImm | seReg | sneReg | ldImm | addImm | ldReg | orReg | andReg | xorReg | addReg | subReg
  | shrReg | subnReg | shlReg | ldI | rnd | ldVxDt | ldDtVx | ldStVx | addI | ldF | undef => rfl

end Sys2Proof.Machine

/-! Timers and memory (45_timer_memory.md): the writes of the timers and of `I`, and the moves between registers and
memory. -/

namespace Sys2Proof.Machine

/-- A byte stored in canonical memory is read back at its place in the span (20_memory.md R56). -/
theorem State.readMem_storeBytes_add {s : State} (hm : s.mem.wf) (a : Nat) {bs : List Byte} {k : Nat} (hk : k < bs.length) :
    (s.storeBytes a bs).readMem (a + k) = bs.getD k 0 := by
  rw [s.readMem_storeBytes hm, if_pos ⟨Nat.le_add_right a k, Nat.add_lt_add_left hk a⟩, Nat.add_sub_cancel_left]

/-- A write of `I` and the normal advance touch `I` and `PC` alone. -/
theorem State.setI_advance_onlyPcAnd (s : State) (w : Word) : OnlyPcAnd s (s.setI w).advance [.i] :=
  (OnlyTouches.refl.setI (.inr (.head _))).setPc (.inl rfl)

/-- The tone is on iff `ST` is not 0 (60_exceptions.md R217). -/
theorem State.tone_iff (s : State) : s.tone = true ↔ s.st ≠ 0 := bne_iff_ne

/-! The timers. -/

/-- Settles O37: the words are those of the map's row, and the answer is the write of `DT` and the normal advance. -/
theorem setDelayTimerCopiesTheRegister : Obligations.SetDelayTimerCopiesTheRegister := by
  unfold Obligations.SetDelayTimerCopiesTheRegister
  refine ⟨decodes_of_mem (by simp [opcodeMap]), fun x s => ⟨_, rfl, rfl, rfl, ?_⟩⟩
  exact (OnlyTouches.refl.setDt (.inr (.head _))).setPc (.inl rfl)

/-- Settles O38: `FX07` is a register write of `DT`; `FX18` writes `ST`, which the tone follows. -/
theorem readDelayAndSetSound : Obligations.ReadDelayAndSetSound := by
  unfold Obligations.ReadDelayAndSetSound
  refine fun x s => ⟨⟨_, rfl, s.getV_setV_advance x s.dt, rfl, s.setV_advance_onlyPcAnd x s.dt⟩, ?_⟩
  refine ⟨_, rfl, rfl, State.tone_iff _, rfl, ?_⟩
  exact (OnlyTouches.refl.setSt (.inr (.head _))).setPc (.inl rfl)

/-! `I`. -/

/-- A byte added to `I` wraps at 65536 (45_timer_memory.md R183). -/
theorem addZext8_toNat (w : Word) (b : Byte) : (w + zext8 b).toNat = (w.toNat + b.toNat) % 65536 := by
  rw [BitVec.toNat_add, zext8_toNat]

/-- The address of a glyph, for all 8 bits of the register: at most 255 * 5, so nothing wraps (45_timer_memory.md R184). -/
theorem zext8_mul_five_toNat (b : Byte) : (zext8 b * 5).toNat = b.toNat * 5 := by
  have hb := b.isLt
  rw [BitVec.toNat_mul, zext8_toNat]
  exact Nat.mod_eq_of_lt (show b.toNat * 5 < 65536 by omega)

/-- Settles O39: both are a write of `I`, of a sum that may wrap and of a product that does not. -/
theorem indexArithmetic : Obligations.IndexArithmetic := by
  unfold Obligations.IndexArithmetic
  refine fun x s => ⟨⟨_, rfl, ?_, rfl, s.setI_advance_onlyPcAnd _⟩, ⟨_, rfl, ?_, rfl, s.setI_advance_onlyPcAnd _⟩⟩
  · exact addZext8_toNat s.i (s.getV x)
  · exact zext8_mul_five_toNat (s.getV x)

/-! Stores and loads inside memory. -/

/-- Settles O40: the span check passes, and the list of the three digits is stored at `I`. -/
theorem decimalDigitsAreStored : Obligations.DecimalDigitsAreStored := by
  unfold Obligations.DecimalDigitsAreStored
  intro x s hm hfit
  have hread {k : Nat} (hk : k < 3) :=
    congrArg BitVec.toNat (State.readMem_storeBytes_add hm s.base (bs := decimalDigits (s.getV x)) hk)
  refine ⟨_, exec_ldB_of_faultOf_none (if_neg (Nat.not_lt.mpr hfit)), ?_, ?_, ?_, rfl, ?_⟩
  · exact (hread (k := 0) (by decide)).trans (decimalDigits_hundreds _)
  · exact (hread (k := 1) (by decide)).trans (decimalDigits_tens _)
  · exact (hread (k := 2) (by decide)).trans (decimalDigits_units _)
  · refine (OnlyTouches.refl.storeBytes hm fun k hk => .inr ?_).setPc (.inl rfl)
    rw [decimalDigits_length] at hk
    interval_cases k <;> simp

/-- Settles O41: the span check passes, and the list of `V[0]` to `V[X]` is stored at the old `I`. -/
theorem registersAreStored : Obligations.RegistersAreStored := by
  unfold Obligations.RegistersAreStored
  intro x s hm hfit
  refine ⟨_, exec_ldMemVx_of_faultOf_none (if_neg (Nat.not_lt.mpr hfit)), fun r hr => ?_, ?_, rfl, ?_⟩
  · have hlt : r.val < (s.lowRegs x).length := by
      rw [s.lowRegs_length]
      exact Nat.lt_succ_of_le hr
    exact (State.readMem_storeBytes_add hm s.base hlt).trans (s.lowRegs_getD x r hr 0)
  · rw [State.advance_i, State.advanceI_toNat, State.storeBytes_i]
  · refine ((OnlyTouches.refl.storeBytes hm fun k hk => ?_).setI (.inr (.inl rfl))).setPc (.inl rfl)
    rw [s.lowRegs_length] at hk
    exact .inr (.inr ⟨k, Nat.le_of_lt_succ hk, rfl⟩)

/-- Settles O42: the span check passes, and `V[0]` to `V[X]` are written from the bytes at the old `I`. -/
theorem registersAreLoaded : Obligations.RegistersAreLoaded := by
  unfold Obligations.RegistersAreLoaded
  intro x s hfit
  refine ⟨_, exec_ldVxMem_of_faultOf_none (if_neg (Nat.not_lt.mpr hfit)), fun r hr => ?_, ?_, ?_, ?_⟩
  · rw [State.getV_advance, State.getV_advanceI, State.getV_setLowRegs, if_pos hr]
  · rw [State.advance_i, State.advanceI_toNat, State.setLowRegs_i]
  · rw [State.advance_pc, State.advanceI_pc, State.setLowRegs_pc]
  · exact ((OnlyTouches.refl.setLowRegs fun r hr => .inr (.inr ⟨r, hr, rfl⟩)).setI (.inr (.inl rfl))).setPc (.inl rfl)

/-- Settles O46: the load reads what the store left at the same addresses, since `ANNN` leaves memory and sets `I` back. -/
theorem storeThenLoadRestoresRegisters : Obligations.StoreThenLoadRestoresRegisters := by
  unfold Obligations.StoreThenLoadRestoresRegisters
  intro x nnn s hm hi hfit
  obtain ⟨t, hstore, hstored, -⟩ := registersAreStored x s hm (hi ▸ hfit)
  refine ⟨t, (t.setI (zext12 nnn)).advance, hstore, rfl, fun u' hmem hi' => ?_⟩
  have hnnn : u'.i.toNat = nnn.toNat := (congrArg BitVec.toNat hi').trans (zext12_toNat nnn)
  have hbase : u'.base = s.base := hnnn.trans hi.symm
  have hread (a : Nat) : u'.readMem a = t.readMem a := congrArg (Memory.read · a) hmem
  obtain ⟨w, hload, hloaded, -⟩ := registersAreLoaded x u' (hnnn ▸ hfit)
  refine ⟨w, hload, fun r hr => ?_⟩
  calc w.getV r = u'.readMem (u'.base + r.val) := hloaded r hr
    _ = t.readMem (s.base + r.val) := by rw [hbase, hread]
    _ = s.getV r := hstored r hr

end Sys2Proof.Machine

/-! Faults (60_exceptions.md): what an instruction that raises one answers, and what one that raises none leaves
unchanged. -/

namespace Sys2Proof.Machine

/-- A data access from `I` on that reaches past 0xFFF raises the fault of R204 and writes nothing, whatever it
would have left. -/
theorem withSpan_base_of_over {s : State} {n : Nat} (t : State) (hn : 0 < n) (hover : 0x1000 < s.i.toNat + n) :
    withSpan s s.base n t = .next (s.raise (.addressFault s.pc (max s.i.toNat 0x1000))) :=
  withSpan_of_over hn hover

/-- An instruction to which the fault table gives a fault raises it and does nothing else (60_exceptions.md R210, R212). -/
theorem exec_of_faultOf_some {i : Instr} {s : State} {f : Fault} (h : faultOf i s = some f) :
    exec i s = .next (s.raise f) := by
  cases i with
  | ret | call =>
    obtain ⟨hsp, rfl⟩ := Option.ite_some_none_eq_some.mp h
    exact if_pos hsp
  | drw =>
    obtain ⟨⟨hn, hover⟩, rfl⟩ := Option.ite_some_none_eq_some.mp h
    exact withSpan_base_of_over _ hn (by omega)
  | ldB =>
    obtain ⟨hover, rfl⟩ := Option.ite_some_none_eq_some.mp h
    exact withSpan_base_of_over _ (by decide) (by omega)
  | ldMemVx | ldVxMem =>
    obtain ⟨hover, rfl⟩ := Option.ite_some_none_eq_some.mp h
    exact withSpan_base_of_over _ (Nat.succ_pos _) (by rw [spanOfReg]; omega)
  | cls | jp | jpV0 | seImm | sneImm | seReg | sneReg | skp | sknp | ldImm | addImm | ldReg | orReg | andReg | xorReg
  | addReg | subReg | shrReg | subnReg | shlReg | ldI | rnd | ldVxDt | ldVxK | ldDtVx | ldStVx | addI | ldF | undef =>
    exact nomatch h

/-- An instruction to which the fault table gives none leaves `FAULT`, and `DT` too unless it is `FX15`
(60_exceptions.md R210, R216). -/
theorem exec_fault_dt_of_faultOf_none {i : Instr} {s : State} (h : faultOf i s = none) :
    ∃ t, exec i s = .next t ∧ t.fault = s.fault ∧ ((∀ x, i ≠ .ldDtVx x) → t.dt = s.dt) := by
  cases i with
  | ret => exact ⟨_, exec_ret_of_faultOf_none h, rfl, fun _ => rfl⟩
  | call => exact ⟨_, exec_call_of_faultOf_none h, rfl, fun _ => rfl⟩
  | drw => exact ⟨_, exec_drw_of_faultOf_none h, rfl, fun _ => rfl⟩
  | ldB => exact ⟨_, exec_ldB_of_faultOf_none h, rfl, fun _ => rfl⟩
  | ldMemVx => exact ⟨_, exec_ldMemVx_of_faultOf_none h, rfl, fun _ => rfl⟩
  | ldVxMem => exact ⟨_, exec_ldVxMem_of_faultOf_none h, rfl, fun _ => rfl⟩
  | ldVxK =>
    cases hk : s.key with
    | none => exact ⟨_, exec_ldVxK_of_none hk, rfl, fun _ => rfl⟩
    | some k => exact ⟨_, exec_ldVxK_of_some hk, rfl, fun _ => rfl⟩
  | ldDtVx x => exact ⟨_, rfl, rfl, fun hne => absurd rfl (hne x)⟩
  | cls | jp | jpV0 | seImm | sneImm | seReg | sneReg | skp | sknp | ldImm | addImm | ldReg | orReg | andReg | xorReg
  | addReg | subReg | shrReg | subnReg | shlReg | ldI | rnd | ldVxDt | ldStVx | addI | ldF | undef =>
    exact ⟨_, rfl, rfl, fun _ => rfl⟩

/-- Settles O11: an instruction raises the fault the table gives it and nothing else, and where the table gives none `FAULT`
stays as it was, that is none. -/
theorem faultsAreExactlyTheListedOnes : Obligations.FaultsAreExactlyTheListedOnes := by
  unfold Obligations.FaultsAreExactlyTheListedOnes
  intro i s hs
  cases hf : faultOf i s with
  | none =>
    obtain ⟨t, hexec, hfault, -⟩ := exec_fault_dt_of_faultOf_none hf
    exact ⟨t, hexec, hfault.trans hs, fun hne => absurd rfl hne⟩
  | some f => exact ⟨s.raise f, exec_of_faultOf_some hf, rfl, fun _ => rfl⟩

/-- Settles O43: in each form the span that leaves memory is what the fault table asks for. -/
theorem dataAddressFaultsArePrecise : Obligations.DataAddressFaultsArePrecise := by
  unfold Obligations.DataAddressFaultsArePrecise
  refine fun x y n s => ⟨fun hn hover => ?_, fun hover => ?_, fun hover => ⟨?_, ?_⟩⟩
  · exact exec_of_faultOf_some (if_pos ⟨hn, by omega⟩)
  · exact exec_of_faultOf_some (if_pos hover)
  · exact exec_of_faultOf_some (if_pos hover)
  · exact exec_of_faultOf_some (if_pos hover)

/-- Settles O19: the stack limits are what the fault table asks for. -/
theorem stackLimitsFault : Obligations.StackLimitsFault := by
  unfold Obligations.StackLimitsFault
  exact fun s => ⟨fun _ hsp => exec_of_faultOf_some (if_pos hsp), fun hsp => exec_of_faultOf_some (if_pos hsp)⟩

end Sys2Proof.Machine

/-! The other agents and the observers (60_exceptions.md R216 to R225): the timers, the latch, the framebuffer. -/

namespace Sys2Proof.Machine

/-! `DT`. -/

/-- An instruction leaves `DT` as it was, unless it is `FX15`: one that faults changes `FAULT` alone. -/
theorem exec_dt {i : Instr} {s t : State} (h : exec i s = .next t) (hi : ∀ x, i ≠ .ldDtVx x) : t.dt = s.dt := by
  cases hf : faultOf i s with
  | none =>
    obtain ⟨u, hexec, -, hdt⟩ := exec_fault_dt_of_faultOf_none hf
    cases h.symm.trans hexec
    exact hdt hi
  | some f => cases h.symm.trans (exec_of_faultOf_some hf); rfl

/-- A step leaves `DT` as it was, unless the word it fetches is `FX15`. -/
theorem step_dt {s t : State} (h : step s = .next t) :
    t.dt = s.dt ∨ ∃ w x, fetch s = .ok w ∧ decode w = .ldDtVx x := by
  rcases step_cases h with ⟨-, rfl⟩ | ⟨-, -, rfl⟩ | ⟨-, hpc, hexec⟩
  · exact .inl rfl
  · exact .inl rfl
  · by_cases hi : ∃ x, decode (s.wordAt s.pc.toNat) = .ldDtVx x
    · obtain ⟨x, hx⟩ := hi
      exact .inr ⟨_, x, fetch_of_fits hpc, hx⟩
    · exact .inl (exec_dt hexec (not_exists.mp hi))

/-- The loader does not reach `DT` (70_reset_and_hazards.md R243). -/
@[simp] theorem State.load_dt (s : State) (bytes : List Byte) : (s.load bytes).dt = s.dt := by
  unfold State.load
  split
  · rfl
  · split <;> rfl

/-- Settles O54: a step leaves `DT` unless it runs `FX15`, reset leaves 0, `dec_delay` takes one off, and no other operation
writes it. -/
theorem delayTimerRisesOnlyByFX15 : Obligations.DelayTimerRisesOnlyByFX15 := by
  unfold Obligations.DelayTimerRisesOnlyByFX15
  intro op s t h hrise
  cases op with
  | step =>
    rcases step_dt h with hdt | hfx15
    · exact absurd hrise (by simp [hdt])
    · exact ⟨rfl, hfx15⟩
  | reset => cases h; exact absurd hrise (Nat.not_lt_zero _)
  | load bytes => cases h; exact absurd hrise (by simp)
  | decDelay =>
    cases h
    exact absurd hrise (Nat.not_lt.mpr ((countDown_toNat s.dt).trans_le (Nat.sub_le _ 1)))
  | decSound | setKey => cases h; exact absurd hrise (Nat.lt_irrefl _)

/-! The tick driver and the input collaborator. -/

theorem OnlyTouches.setKey {s t : State} {P : Element → Prop} {k : Option Key} (h : OnlyTouches s t P) (hp : P .key) :
    OnlyTouches s (t.setKey k) P := by
  refine h.trans fun e he => ?_
  cases e with
  | key => exact absurd hp he
  | _ => rfl

/-- Settles O59: each operation is one write of its own element, and the two decrements write different ones. -/
theorem otherAgentsTouchOnlyTheirOwn : Obligations.OtherAgentsTouchOnlyTheirOwn := by
  unfold Obligations.OtherAgentsTouchOnlyTheirOwn
  refine fun s k => ⟨⟨s.decDelay, rfl, ?_, ?_⟩, ⟨s.decSound, rfl, ?_, ?_⟩, ⟨s.setKey k, rfl, rfl, ?_⟩, rfl⟩
  · exact countDown_toNat s.dt
  · exact OnlyTouches.refl.setDt rfl
  · exact countDown_toNat s.st
  · exact OnlyTouches.refl.setSt rfl
  · exact OnlyTouches.refl.setKey rfl

/-! The framebuffer as observers read it. -/

/-- What observers read of the framebuffer is the library's flattening of its rows (10_state.md R29, 60_exceptions.md R220). -/
theorem State.exportFb_eq_flatten (s : State) : s.exportFb = s.fb.flatten.toList := by
  simp [State.exportFb, Vector.flatten, Vector.toList, List.flatMap_def, Function.comp_def]

/-- Settles O60: the flattening of 32 rows of 64 cells has 32 * 64 elements, and element `i` is cell `i % 64` of row
`i / 64`. -/
theorem exportedFramebufferIsRowMajor : Obligations.ExportedFramebufferIsRowMajor := by
  unfold Obligations.ExportedFramebufferIsRowMajor
  refine fun s => ⟨?_, fun y x => ?_⟩
  · rw [State.exportFb_eq_flatten, Vector.length_toList]
  · have hlt : y.val * 64 + x.val < 32 * 64 := by omega
    have hrow : (y.val * 64 + x.val) / 64 = y.val := by omega
    have hcol : (y.val * 64 + x.val) % 64 = x.val := by omega
    rw [State.exportFb_eq_flatten, Vector.getElem?_toList, Vector.getElem?_eq_getElem hlt, Vector.getElem_flatten]
    simp [hrow, hcol, State.getFb]

end Sys2Proof.Machine

/-! Reset, load and the end of a run (70_reset_and_hazards.md). -/

namespace Sys2Proof.Machine

/-! Load: its two ways on a machine that is not halted; `State.load_of_fault` is the third. -/

/-- A program above 3584 bytes is refused whole (70_reset_and_hazards.md R245). -/
theorem State.load_of_tooLong {s : State} {bytes : List Byte} (hf : s.fault = none) (hlen : 3584 < bytes.length) :
    s.load bytes = s.raise (.romTooLarge bytes.length) := by
  have hlong : maxProgram < bytes.length := hlen
  simp [State.load, hf, hlong]

/-- A program of at most 3584 bytes is stored from 0x200 on (70_reset_and_hazards.md R243). -/
theorem State.load_of_fits {s : State} {bytes : List Byte} (hf : s.fault = none) (hlen : bytes.length ≤ 3584) :
    s.load bytes = s.storeBytes 0x200 bytes := by
  have hfits : ¬ maxProgram < bytes.length := Nat.not_lt.mpr hlen
  simp [State.load, hf, hfits, programBase]

/-- Settles O58: a halted machine does nothing, a program too long raises, and one that fits is a store from 0x200 on. -/
theorem loadPlacesTheBytes : Obligations.LoadPlacesTheBytes := by
  unfold Obligations.LoadPlacesTheBytes
  refine fun bytes s hm => ⟨fun hne => ?_, fun hf hlen => ?_, fun hf hlen => ?_⟩
  · obtain ⟨f, hf⟩ := Option.ne_none_iff_exists'.mp hne
    exact congrArg Host.Outcome.next (State.load_of_fault hf bytes)
  · exact congrArg Host.Outcome.next (State.load_of_tooLong hf hlen)
  · refine ⟨s.storeBytes 0x200 bytes, congrArg Host.Outcome.next (State.load_of_fits hf hlen), fun k hk => ?_, ?_⟩
    · exact State.readMem_storeBytes_add hm 0x200 hk
    · exact OnlyTouches.refl.storeBytes hm fun k hk => ⟨k, hk, rfl⟩

/-! Reset: what it leaves in the registers, the framebuffer and memory (10_state.md R37); `State.getStk_applyReset` is the
stack. -/

@[simp] theorem State.getV_applyReset (s : State) (r : Reg) : s.applyReset.getV r = 0 := by
  simp [State.applyReset, State.reset, State.getV]

@[simp] theorem State.getFb_applyReset (s : State) (y : Fin 32) (x : Fin 64) : s.applyReset.getFb y x = false :=
  Framebuffer.blank_get y x

@[simp] theorem State.readMem_applyReset (s : State) (a : Nat) : s.applyReset.readMem a = resetByte a := rfl

theorem resetByte_of_font {a : Nat} (h : a < 80) : resetByte a = font.getD a 0 := if_pos h

theorem resetByte_above_font {a : Nat} (h : 80 ≤ a) : resetByte a = 0 := if_neg (Nat.not_lt.mpr h)

/-- Settles O56: memory reads as its reset content, the font and zeros above it, and every other element but the latch is
the reset state's. -/
theorem resetLeavesTheResetState : Obligations.ResetLeavesTheResetState := by
  unfold Obligations.ResetLeavesTheResetState
  refine fun s => ⟨s.applyReset, rfl, rfl, fun a hfont => ?_, fun a habove _ => ?_, s.getV_applyReset, rfl, rfl,
    s.getStk_applyReset, s.getFb_applyReset, rfl, rfl, rfl⟩
  · rw [s.readMem_applyReset, resetByte_of_font hfont]
  · rw [s.readMem_applyReset, resetByte_above_font habove]

@[simp] theorem State.applyReset_key (s : State) : s.applyReset.key = s.key := rfl

/-- Settles O57: of the elements of the spec's state, the latch is the one that reset takes over. -/
theorem resetKeepsTheLatch : Obligations.ResetKeepsTheLatch := by
  unfold Obligations.ResetKeepsTheLatch
  exact fun s => ⟨s.applyReset, rfl, s.applyReset_key⟩

/-! The finished state (70_reset_and_hazards.md R251; D26). -/

/-- A fetch reads `PC` and memory alone (40_dispatch.md R101). -/
theorem fetch_congr {s t : State} (hpc : t.pc = s.pc) (hmem : t.mem = s.mem) : fetch t = fetch s := by
  simp only [fetch, State.wordAt, State.readMem, hpc, hmem]

/-- With no fault latched, a step runs the instruction of the word that the fetch answers (40_dispatch.md R102, R103). -/
theorem step_of_fetch {s : State} {w : Word} (hf : s.fault = none) (hw : fetch s = .ok w) : step s = exec (decode w) s := by
  simp only [step, hf, hw]

/-- The step of a finished state is a jump to where it stands. -/
theorem Finished.step_eq {s : State} (h : Finished s) : step s = .next s := by
  obtain ⟨hf, nnn, hfetch, hself⟩ := h
  calc step s
    _ = exec (decode (encode (.jp nnn))) s := step_of_fetch hf hfetch
    _ = exec (.jp nnn) s := by rw [decode_encode rfl]
    _ = .next (s.setPc (zext12 nnn)) := rfl
    _ = .next s := by rw [hself, s.setPc_self]

/-- Being finished speaks of `FAULT`, `PC` and memory alone. -/
theorem Finished.congr {s t : State} (h : Finished s) (hfault : t.fault = s.fault) (hpc : t.pc = s.pc)
    (hmem : t.mem = s.mem) : Finished t := by
  obtain ⟨hf, nnn, hfetch, hself⟩ := h
  exact ⟨hfault.trans hf, nnn, (fetch_congr hpc hmem).trans hfetch, hself.trans hpc.symm⟩

/-- Settles O48: the step is a jump to `PC` itself, and a timer or the latch is not among what being finished speaks of. -/
theorem finishedStateStays : Obligations.FinishedStateStays := by
  unfold Obligations.FinishedStateStays
  exact fun s h => ⟨h.step_eq, h.congr rfl rfl rfl, h.congr rfl rfl rfl, fun _ => h.congr rfl rfl rfl⟩

end Sys2Proof.Machine
